-- ==== Sys2Proof/Word.lean ====
section
/-! DEFINITION. The value widths of the machine (spec/00_scope.md R12, R13): every value a rule
computes is an unsigned integer of one of these widths, or an unbounded integer (`Nat`, `Int`). -/

namespace Sys2Proof

/-- `u8`: a general register, a memory byte, the stack pointer, a timer (00_scope R13). -/
abbrev Byte := BitVec 8

/-- `u16`: an instruction word, I, pc, a return address (00_scope R13). -/
abbrev Word := BitVec 16

/-- A 4-bit field of an instruction: F, x, y or n (30_encoding R101). -/
abbrev Nibble := BitVec 4

/-- The 12-bit field nnn of an instruction (30_encoding R101). -/
abbrev Addr := BitVec 12

/-- The number of a general register, V0 to VF (10_state R30): every 4-bit value names one. -/
abbrev Reg := BitVec 4

end Sys2Proof
end

