-- ==== Sys2Proof/Config.lean ====
section
/-! DEFINITION. What an implementation fixes, and the free values.

`Params` is the record of the parameters the source leaves open or names (spec/00_scope.md R10). A
machine carries its record in its state and nothing changes it, so that a statement about every
state is a statement about every choice of the parameters.

The opaque constants are the free values: nothing in Lean can evaluate one or prove a value of it. -/

namespace Sys2Proof

/-- The named parameters of 00_scope R10. Times are natural numbers of one unit in which both
periods are whole (92_eei_decisions D30). -/
structure Params where
  /-- MEM_SIZE: the capacity of the AddressSpace in bytes (D1). -/
  memSize : Nat
  /-- LOAD_ADDR: where the host loader places the program image (D2). -/
  loadAddr : Nat
  /-- ENTRY_PC: the reset value of pc (D3). -/
  entryPc : Word
  /-- FB_W: the framebuffer's width at construction (D31). -/
  fbWidth : Nat
  /-- FB_H: the framebuffer's height at construction (D31). -/
  fbHeight : Nat
  /-- INSTR_PERIOD: the virtual time of one instruction (D30). -/
  instrPeriod : Nat
  /-- TIMER_PERIOD: the virtual time of one timer decrement (D30). -/
  timerPeriod : Nat
  /-- FONT_BASE: the address of the glyph of digit 0 (D23). -/
  fontBase : Nat
  /-- FONT_STRIDE: the bytes of one digit's glyph (D23). -/
  fontStride : Nat
  /-- FLAG: the index of the flag register (10_state R31, D5). -/
  flag : Reg
  /-- NKEYS: how many keys the key-wait can return, 0 to NKEYS - 1 (44_input_timer_misc R290, D21). -/
  nkeys : Nat
  deriving DecidableEq, Repr

/-- The spec's default instantiation (00_scope R10). DESIGN CHOICE (log entry 3): the spec gives
INSTR_PERIOD no default; here the unit is 1/600 s, so that one period is 1 and TIMER_PERIOD = 1/60 s
is 10, as in vector TT-6 of 95_test_vectors. -/
def Params.default : Params where
  memSize := 4096
  loadAddr := 0x200
  entryPc := 0x0000
  fbWidth := 64
  fbHeight := 32
  instrPeriod := 1
  timerPeriod := 10
  fontBase := 0x000
  fontStride := 5
  flag := 0xF
  nkeys := 16

namespace Config

/-- The byte the host's random source answers to the `n`-th free draw (42_load_alu R216, D16): any
value, independently at each draw. A free value; log entry 4. -/
opaque randomByte (n : Nat) : Byte

/-- The input collaborator's answer to the `n`-th free draw, asked whether key `k` is pressed
(44_input_timer_misc R290, D18): any Boolean for every k in 0..255. A free value; log entry 4. -/
opaque keyPressed (n : Nat) (k : Byte) : Bool

/-- The input collaborator's answer to the `n`-th free draw, polled for a key (44_input_timer_misc
R290, D21): none or any `u8`. An answer that is none of the machine's NKEYS keys counts as none
(`State.keyWaitPoll`). A free value; log entries 4 and 14. -/
opaque keyWaitPoll (n : Nat) : Option Byte

/-- The time of the `n`-th free tick (40_cycle R147, R152: the host chooses each dt). A free value; log
entry 5. -/
opaque tickTime (n : Nat) : Nat

end Config

end Sys2Proof
end

