-- ==== Sys2Proof/Syntax.lean ====
section
/-! DEFINITION. The instruction set: one constructor for each of the 34 rows of
spec/opcode_table.json (30_encoding R110), in the table's order. -/

namespace Sys2Proof

/-- An instruction with its operand fields (30_encoding R101 to R104). Fields that the hardware
ignores (`n` of 5xyn and 9xyn, R109; `y` of 8xy6 and 8xyE, R209 and R211) are kept, so that an
instruction stands for exactly one word. -/
inductive Instr where
  /-- `00E0` CLS (43_display R260). -/
  | cls
  /-- `00EE` RET (41_control_flow R171). -/
  | ret
  /-- `1nnn` JP nnn (R172). -/
  | jp (nnn : Addr)
  /-- `2nnn` CALL nnn (R173). -/
  | call (nnn : Addr)
  /-- `3xkk` SE Vx, kk (R174). -/
  | seImm (x : Reg) (kk : Byte)
  /-- `4xkk` SNE Vx, kk (R175). -/
  | sneImm (x : Reg) (kk : Byte)
  /-- `5xyn` SE Vx, Vy, n ignored (R176). -/
  | seReg (x y : Reg) (n : Nibble)
  /-- `6xkk` LD Vx, kk (42_load_alu R201). -/
  | ldImm (x : Reg) (kk : Byte)
  /-- `7xkk` ADD Vx, kk (R202). -/
  | addImm (x : Reg) (kk : Byte)
  /-- `8xy0` LD Vx, Vy (R203). -/
  | ldReg (x y : Reg)
  /-- `8xy1` OR Vx, Vy (R204). -/
  | orReg (x y : Reg)
  /-- `8xy2` AND Vx, Vy (R205). -/
  | andReg (x y : Reg)
  /-- `8xy3` XOR Vx, Vy (R206). -/
  | xorReg (x y : Reg)
  /-- `8xy4` ADD Vx, Vy with carry (R207). -/
  | addReg (x y : Reg)
  /-- `8xy5` SUB Vx, Vy with the no-borrow flag (R208). -/
  | subReg (x y : Reg)
  /-- `8xy6` SHR Vx, y ignored (R209). -/
  | shr (x y : Reg)
  /-- `8xy7` SUBN Vx, Vy with the no-borrow flag (R210). -/
  | subnReg (x y : Reg)
  /-- `8xyE` SHL Vx, y ignored (R211). -/
  | shl (x y : Reg)
  /-- `9xyn` SNE Vx, Vy, n ignored (R177). -/
  | sneReg (x y : Reg) (n : Nibble)
  /-- `Annn` LD I, nnn (R212). -/
  | ldI (nnn : Addr)
  /-- `Bnnn` CALL V0, nnn (R178). -/
  | callV0 (nnn : Addr)
  /-- `Cxkk` RND Vx, kk (R213). -/
  | rnd (x : Reg) (kk : Byte)
  /-- `Dxyn` DRW Vx, Vy, n (43_display R261). -/
  | drw (x y : Reg) (n : Nibble)
  /-- `Ex9E` SKP Vx (44_input_timer_misc R291). -/
  | skp (x : Reg)
  /-- `ExA1` SKNP Vx (R292). -/
  | sknp (x : Reg)
  /-- `Fx07` LD Vx, DT (R293). -/
  | ldVxDt (x : Reg)
  /-- `Fx0A` LD Vx, K (R294). -/
  | ldVxK (x : Reg)
  /-- `Fx15` LD DT, Vx (R295). -/
  | ldDtVx (x : Reg)
  /-- `Fx18` LD ST, Vx (R296). -/
  | ldStVx (x : Reg)
  /-- `Fx1E` ADD I, Vx (R297). -/
  | addI (x : Reg)
  /-- `Fx29` LD F, Vx (R298). -/
  | ldF (x : Reg)
  /-- `Fx33` LD B, Vx (R299). -/
  | ldB (x : Reg)
  /-- `Fx55` LD [I], Vx: x is the last register stored (R300, R103). -/
  | storeRegs (x : Reg)
  /-- `Fx65` LD Vx, [I]: x is the last register loaded (R301, R103). -/
  | loadRegs (x : Reg)
  deriving DecidableEq, Repr

end Sys2Proof
end

