-- ==== Sys2Proof/WellFormed.lean ====
section
/-! DEFINITION. What is well formed.

An instruction is well formed by its type: each field of `Instr` has exactly the width of its field
in the word (spec/30_encoding.md R101), and the spec has no operand value that an instruction may not
carry (R109, R113). What can be ill formed is a machine's parameters (00_scope R11) and the mode that
the host asks of the framebuffer (43_display R250). -/

namespace Sys2Proof

/-- Every term of `Instr` is well formed: the widths of its fields leave nothing to check, and every
word of a family without a sub-discriminant is legal (30_encoding R109). -/
def Instr.wellFormed (_ : Instr) : Bool := true

/-- A framebuffer mode has at least one column and one row (43_display R250, 92_eei_decisions D34). -/
def modeWellFormed (w h : Nat) : Bool := decide (1 ≤ w) && decide (1 ≤ h)

/-- The constraints a model must enforce at construction (00_scope R11). -/
def Params.wellFormed (p : Params) : Bool :=
  decide (1 ≤ p.memSize) && modeWellFormed p.fbWidth p.fbHeight &&
    decide (0 < p.instrPeriod) && decide (0 < p.timerPeriod)

end Sys2Proof
end

