-- ==== Sys2Proof/Machine/State.lean ====
section
/-! DEFINITION. The machine's state as plain data (spec/10_state.md), the reasons a step can stop, and
the state after construction or reset (spec/70_reset_and_hazards.md R380, R381). -/

namespace Sys2Proof.Machine

/-- Why the machine stops without a next state. The spec's own faults are NOT here: the spec says what
they leave, so they are next states with the latch set (`FaultKind`). -/
inductive Fault where
  /-- Raised by RET alone, when sp is above 16: the slot `stack[sp - 1]` that 10_state R59 reads does
  not exist. R37: "The values 17 to 255 are never reached". Safe: the model stops where the spec
  names no value. -/
  | noStackSlot
  deriving DecidableEq, Repr

/-- Why an instruction has no meaning. -/
inductive Refusal where
  /-- Raised by `exec` for an instruction that has no meaning yet; every instruction has one. Safe. -/
  | notModelled (mnemonic : String)
  deriving DecidableEq, Repr

/-- The three fault kinds a cycle can latch (60_exceptions R340). -/
inductive FaultKind where
  | stackOverflow
  | stackUnderflow
  | unknownOpcode
  deriving DecidableEq, Repr

/-- The events of the observability sink (60_exceptions R351). Addresses are the non-negative
integers that the rules compute (20_memory R74); pixel coordinates are integers. -/
inductive Report where
  /-- `OutOfBoundsAccess(MemRead, addr)` (20_memory R72). -/
  | outOfBoundsRead (addr : Nat)
  /-- `OutOfBoundsAccess(MemWrite, addr, value)` (20_memory R73). -/
  | outOfBoundsWrite (addr : Nat) (value : Byte)
  /-- `OutOfBoundsAccess(Pixel, x, y)` (43_display R257). -/
  | outOfBoundsPixel (x y : Int)
  /-- `Fault(kind, pc, word)` (60_exceptions R341). -/
  | fault (kind : FaultKind) (pc word : Word)
  deriving DecidableEq, Repr

/-- The framebuffer (10_state R49 to R51). `pix` holds one Bool per pixel, row by row: pixel (x, y)
stands at position `y * width + x`. -/
structure Framebuffer where
  width : Nat
  height : Nat
  pix : List Bool
  changed : Bool
  deriving DecidableEq, Repr

/-- The framebuffer after `setMode(w, h)` (43_display R250): every pixel inactive, marked changed. -/
def Framebuffer.blank (w h : Nat) : Framebuffer where
  width := w
  height := h
  pix := List.replicate (w * h) false
  changed := true

/-- What an address that the memory does not list reads as. DESIGN CHOICE (log entry 2): the launch
image is an input (10_state R52); the vectors of 95_test_vectors hold 0x00 wherever they list
nothing. -/
def unlistedByte : Byte := 0x00

/-- The contents of the AddressSpace (10_state R52) as (address, byte) pairs in one canonical form:
addresses strictly rising, no byte equal to `unlistedByte`. -/
abbrev Memory := List Host.Cell

/-- The whole state of the core. -/
structure State where
  /-- The machine's parameters (00_scope R10); nothing changes them. -/
  params : Params
  /-- V0 to VF (10_state R30). -/
  regs : Vector Byte 16
  /-- I (R33). -/
  index : Word
  /-- pc (R34). -/
  pc : Word
  /-- sp (R37). -/
  sp : Byte
  /-- The return stack (R38). -/
  stack : Vector Word 16
  /-- DT (R39). -/
  delayTimer : Byte
  /-- ST (R40). -/
  soundTimer : Byte
  /-- The fault latch (R45). -/
  latch : Option FaultKind
  /-- Whether the presentation has been closed (R46). -/
  closed : Bool
  /-- The Scheduler's accumulator for instructions (R47). -/
  acc : Nat
  /-- The timer domain's accumulator (R47). -/
  tacc : Nat
  /-- The `count` of the tick in progress (40_cycle R147). -/
  tickCount : Nat
  /-- The number of cycles of the most recent tick (R48). -/
  lastTickCount : Nat
  /-- The framebuffer (R49 to R51). -/
  fb : Framebuffer
  /-- The AddressSpace (R52). -/
  mem : Memory
  /-- The observability sink, oldest event first (R53). -/
  reports : List Report
  /-- The model's own: how many free inputs have been drawn (00_scope R18; log entry 4). -/
  inputDraws : Nat
  /-- The model's own: how many free times have been drawn (40_cycle R152; log entry 5). -/
  timeDraws : Nat
  deriving DecidableEq, Repr

/-- The state of a machine that is constructed successfully from its parameters and its launch image
(70_reset_and_hazards R380 steps 1 to 5). -/
def State.construct (p : Params) (image : Memory) : State where
  params := p
  regs := Vector.replicate 16 0
  index := 0
  pc := p.entryPc
  sp := 0
  stack := Vector.replicate 16 0
  delayTimer := 0
  soundTimer := 0
  latch := none
  closed := false
  acc := 0
  tacc := 0
  tickCount := 0
  lastTickCount := 0
  fb := Framebuffer.blank p.fbWidth p.fbHeight
  mem := image
  reports := []
  inputDraws := 0
  timeDraws := 0

/-- The machine right after reset (70_reset_and_hazards R381), with the spec's default parameters and
a launch image that lists nothing (log entries 2 and 3). -/
def State.reset : State := State.construct Params.default []

end Sys2Proof.Machine
end

