-- ==== Sys2Proof/Machine/Flags.lean ====
section
/-! DEFINITION. The values that instructions leave in the flag register VF (spec/10_state.md R41,
spec/42_load_alu.md R207 to R211, spec/43_display.md R261). -/

namespace Sys2Proof.Machine

/-- A flag is the byte 1 or 0. -/
def flagByte (b : Bool) : Byte := if b then 1 else 0

/-- 8xy4: 1 iff the unsigned 9-bit sum exceeds 255 (42_load_alu R207). -/
def carryFlag (a b : Byte) : Byte := flagByte (decide (255 < a.toNat + b.toNat))

/-- The no-borrow flag of `a - b`: 1 iff `a > b`, strictly (R208; R210 with the operands swapped). -/
def noBorrowFlag (a b : Byte) : Byte := flagByte (decide (b.toNat < a.toNat))

/-- 8xy6: bit 0, the bit shifted out to the right (R209). -/
def shiftedOutRight (a : Byte) : Byte := a &&& 0x01

/-- 8xyE: bit 7, the bit shifted out to the left (R211, 90_conflicts C1). -/
def shiftedOutLeft (a : Byte) : Byte := (a >>> 7) &&& 0x01

/-- Dxyn: 1 iff some pixel went from active to inactive (43_display R261). -/
def collisionFlag (c : Bool) : Byte := flagByte c

end Sys2Proof.Machine
end

