-- ==== Sys2Proof/Decode.lean ====
section
/-! DEFINITION. Decoding and encoding (spec/30_encoding.md).

The decoder is the total two-level match of R104 on the 16-bit word; a word that matches no row is
rejected under the name of its family (R112). The encoder is written from the same table (R110).
Bytes are big-endian: the high byte first (20_memory R75, R76). -/

namespace Sys2Proof

/-! ### The fields of a word (30_encoding R101) -/

/-- F: bits 15 to 12. -/
def fieldF (w : Word) : Nibble := w.extractLsb' 12 4

/-- x: bits 11 to 8. -/
def fieldX (w : Word) : Reg := w.extractLsb' 8 4

/-- y: bits 7 to 4. -/
def fieldY (w : Word) : Reg := w.extractLsb' 4 4

/-- n: bits 3 to 0. -/
def fieldN (w : Word) : Nibble := w.extractLsb' 0 4

/-- kk: bits 7 to 0. -/
def fieldKk (w : Word) : Byte := w.extractLsb' 0 8

/-- nnn: bits 11 to 0. -/
def fieldNnn (w : Word) : Addr := w.extractLsb' 0 12

/-! ### The decoder -/

/-- Why bytes are no instruction: the family whose sub-discriminant is not in the table
(30_encoding R112), or fewer bytes than the one instruction length (R114). -/
inductive Reject where
  /-- Family 0 with nnn other than 0x0E0 and 0x0EE (R105). -/
  | family0
  /-- Family 8 with n in 8 to D or F (R106). -/
  | family8
  /-- Family E with kk other than 0x9E and 0xA1 (R107). -/
  | familyE
  /-- Family F with a low byte that R108 does not assign. -/
  | familyF
  /-- Fewer than two bytes: never met by a fetch, which always reads two (20_memory R76). -/
  | truncated
  deriving DecidableEq, Repr

/-- Family 0 selects on its low 12 bits (30_encoding R105). -/
def decodeFamily0 (w : Word) : Except Reject Instr :=
  match fieldNnn w with
  | 0x0E0#12 => .ok .cls
  | 0x0EE#12 => .ok .ret
  | _ => .error .family0

/-- Family 8 selects on its low nibble (30_encoding R106). -/
def decodeFamily8 (w : Word) : Except Reject Instr :=
  match fieldN w with
  | 0x0#4 => .ok (.ldReg (fieldX w) (fieldY w))
  | 0x1#4 => .ok (.orReg (fieldX w) (fieldY w))
  | 0x2#4 => .ok (.andReg (fieldX w) (fieldY w))
  | 0x3#4 => .ok (.xorReg (fieldX w) (fieldY w))
  | 0x4#4 => .ok (.addReg (fieldX w) (fieldY w))
  | 0x5#4 => .ok (.subReg (fieldX w) (fieldY w))
  | 0x6#4 => .ok (.shr (fieldX w) (fieldY w))
  | 0x7#4 => .ok (.subnReg (fieldX w) (fieldY w))
  | 0xE#4 => .ok (.shl (fieldX w) (fieldY w))
  | _ => .error .family8

/-- Family E selects on its low byte (30_encoding R107). -/
def decodeFamilyE (w : Word) : Except Reject Instr :=
  match fieldKk w with
  | 0x9E#8 => .ok (.skp (fieldX w))
  | 0xA1#8 => .ok (.sknp (fieldX w))
  | _ => .error .familyE

/-- Family F selects on its low byte, as R108 assigns them (30_encoding R108, D19). -/
def decodeFamilyF (w : Word) : Except Reject Instr :=
  match fieldKk w with
  | 0x07#8 => .ok (.ldVxDt (fieldX w))
  | 0x0A#8 => .ok (.ldVxK (fieldX w))
  | 0x15#8 => .ok (.ldDtVx (fieldX w))
  | 0x18#8 => .ok (.ldStVx (fieldX w))
  | 0x1E#8 => .ok (.addI (fieldX w))
  | 0x29#8 => .ok (.ldF (fieldX w))
  | 0x33#8 => .ok (.ldB (fieldX w))
  | 0x55#8 => .ok (.storeRegs (fieldX w))
  | 0x65#8 => .ok (.loadRegs (fieldX w))
  | _ => .error .familyF

/-- The decoder (30_encoding R104): total on the 65536 words. -/
def decodeWord (w : Word) : Except Reject Instr :=
  match fieldF w with
  | 0x0#4 => decodeFamily0 w
  | 0x1#4 => .ok (.jp (fieldNnn w))
  | 0x2#4 => .ok (.call (fieldNnn w))
  | 0x3#4 => .ok (.seImm (fieldX w) (fieldKk w))
  | 0x4#4 => .ok (.sneImm (fieldX w) (fieldKk w))
  | 0x5#4 => .ok (.seReg (fieldX w) (fieldY w) (fieldN w))
  | 0x6#4 => .ok (.ldImm (fieldX w) (fieldKk w))
  | 0x7#4 => .ok (.addImm (fieldX w) (fieldKk w))
  | 0x8#4 => decodeFamily8 w
  | 0x9#4 => .ok (.sneReg (fieldX w) (fieldY w) (fieldN w))
  | 0xA#4 => .ok (.ldI (fieldNnn w))
  | 0xB#4 => .ok (.callV0 (fieldNnn w))
  | 0xC#4 => .ok (.rnd (fieldX w) (fieldKk w))
  | 0xD#4 => .ok (.drw (fieldX w) (fieldY w) (fieldN w))
  | 0xE#4 => decodeFamilyE w
  | _ => decodeFamilyF w

/-- The word of two bytes in memory order, high byte first (00_scope R14, 20_memory R76). -/
def wordOfBytes (hi lo : Byte) : Word := hi ++ lo

/-- The high byte of a word: the byte at the lower address. -/
def highByte (w : Word) : Byte := w.extractLsb' 8 8

/-- The low byte of a word: the byte at the higher address. -/
def lowByte (w : Word) : Byte := w.extractLsb' 0 8

/-- Decoding any bytes: the first two are the instruction, the rest is handed back
(30_encoding R100, R114). -/
def decodeBytes : List Byte → Except Reject (Instr × List Byte)
  | hi :: lo :: rest => (decodeWord (wordOfBytes hi lo)).map fun i => (i, rest)
  | _ => .error .truncated

/-! ### The encoder -/

/-- A word of format F : nnn (30_encoding R101). -/
def packNnn (f : Nibble) (nnn : Addr) : Word := f ++ nnn

/-- A word of format F : x : kk (30_encoding R101). -/
def packXKk (f : Nibble) (x : Reg) (kk : Byte) : Word := packNnn f (x ++ kk)

/-- A word of format F : x : y : n (30_encoding R101). -/
def packXYN (f : Nibble) (x y : Reg) (n : Nibble) : Word := packXKk f x (y ++ n)

/-- The word of an instruction, from the opcode map (30_encoding R110). -/
def encode : Instr → Word
  | .cls => 0x00E0
  | .ret => 0x00EE
  | .jp nnn => packNnn 0x1 nnn
  | .call nnn => packNnn 0x2 nnn
  | .seImm x kk => packXKk 0x3 x kk
  | .sneImm x kk => packXKk 0x4 x kk
  | .seReg x y n => packXYN 0x5 x y n
  | .ldImm x kk => packXKk 0x6 x kk
  | .addImm x kk => packXKk 0x7 x kk
  | .ldReg x y => packXYN 0x8 x y 0x0
  | .orReg x y => packXYN 0x8 x y 0x1
  | .andReg x y => packXYN 0x8 x y 0x2
  | .xorReg x y => packXYN 0x8 x y 0x3
  | .addReg x y => packXYN 0x8 x y 0x4
  | .subReg x y => packXYN 0x8 x y 0x5
  | .shr x y => packXYN 0x8 x y 0x6
  | .subnReg x y => packXYN 0x8 x y 0x7
  | .shl x y => packXYN 0x8 x y 0xE
  | .sneReg x y n => packXYN 0x9 x y n
  | .ldI nnn => packNnn 0xA nnn
  | .callV0 nnn => packNnn 0xB nnn
  | .rnd x kk => packXKk 0xC x kk
  | .drw x y n => packXYN 0xD x y n
  | .skp x => packXKk 0xE x 0x9E
  | .sknp x => packXKk 0xE x 0xA1
  | .ldVxDt x => packXKk 0xF x 0x07
  | .ldVxK x => packXKk 0xF x 0x0A
  | .ldDtVx x => packXKk 0xF x 0x15
  | .ldStVx x => packXKk 0xF x 0x18
  | .addI x => packXKk 0xF x 0x1E
  | .ldF x => packXKk 0xF x 0x29
  | .ldB x => packXKk 0xF x 0x33
  | .storeRegs x => packXKk 0xF x 0x55
  | .loadRegs x => packXKk 0xF x 0x65

/-- The bytes of an instruction in memory order (20_memory R75). -/
def encodeBytes (i : Instr) : List Byte := [highByte (encode i), lowByte (encode i)]

/-! ### The opcode map as masks and matches (30_encoding R110) -/

/-- The (mask, match) row of the opcode map that an instruction belongs to (30_encoding R110). -/
def opcodeRow : Instr → Word × Word
  | .cls => (0xFFFF, 0x00E0)
  | .ret => (0xFFFF, 0x00EE)
  | .jp _ => (0xF000, 0x1000)
  | .call _ => (0xF000, 0x2000)
  | .seImm _ _ => (0xF000, 0x3000)
  | .sneImm _ _ => (0xF000, 0x4000)
  | .seReg _ _ _ => (0xF000, 0x5000)
  | .ldImm _ _ => (0xF000, 0x6000)
  | .addImm _ _ => (0xF000, 0x7000)
  | .ldReg _ _ => (0xF00F, 0x8000)
  | .orReg _ _ => (0xF00F, 0x8001)
  | .andReg _ _ => (0xF00F, 0x8002)
  | .xorReg _ _ => (0xF00F, 0x8003)
  | .addReg _ _ => (0xF00F, 0x8004)
  | .subReg _ _ => (0xF00F, 0x8005)
  | .shr _ _ => (0xF00F, 0x8006)
  | .subnReg _ _ => (0xF00F, 0x8007)
  | .shl _ _ => (0xF00F, 0x800E)
  | .sneReg _ _ _ => (0xF000, 0x9000)
  | .ldI _ => (0xF000, 0xA000)
  | .callV0 _ => (0xF000, 0xB000)
  | .rnd _ _ => (0xF000, 0xC000)
  | .drw _ _ _ => (0xF000, 0xD000)
  | .skp _ => (0xF0FF, 0xE09E)
  | .sknp _ => (0xF0FF, 0xE0A1)
  | .ldVxDt _ => (0xF0FF, 0xF007)
  | .ldVxK _ => (0xF0FF, 0xF00A)
  | .ldDtVx _ => (0xF0FF, 0xF015)
  | .ldStVx _ => (0xF0FF, 0xF018)
  | .addI _ => (0xF0FF, 0xF01E)
  | .ldF _ => (0xF0FF, 0xF029)
  | .ldB _ => (0xF0FF, 0xF033)
  | .storeRegs _ => (0xF0FF, 0xF055)
  | .loadRegs _ => (0xF0FF, 0xF065)

/-- The 34 rows of the opcode map, in its order (30_encoding R110): mask and match. -/
def opcodeRows : List (Word × Word) :=
  [(0xFFFF, 0x00E0), (0xFFFF, 0x00EE), (0xF000, 0x1000), (0xF000, 0x2000), (0xF000, 0x3000),
    (0xF000, 0x4000), (0xF000, 0x5000), (0xF000, 0x6000), (0xF000, 0x7000)] ++
  [(0xF00F, 0x8000), (0xF00F, 0x8001), (0xF00F, 0x8002), (0xF00F, 0x8003), (0xF00F, 0x8004),
    (0xF00F, 0x8005), (0xF00F, 0x8006), (0xF00F, 0x8007), (0xF00F, 0x800E)] ++
  [(0xF000, 0x9000), (0xF000, 0xA000), (0xF000, 0xB000), (0xF000, 0xC000), (0xF000, 0xD000)] ++
  [(0xF0FF, 0xE09E), (0xF0FF, 0xE0A1), (0xF0FF, 0xF007), (0xF0FF, 0xF00A), (0xF0FF, 0xF015),
    (0xF0FF, 0xF018), (0xF0FF, 0xF01E), (0xF0FF, 0xF029), (0xF0FF, 0xF033), (0xF0FF, 0xF055),
    (0xF0FF, 0xF065)]

/-- A word selects a row iff `(w AND mask) = match` (30_encoding R110). -/
def selectsRow (w : Word) (row : Word × Word) : Bool := (w &&& row.1) == row.2

/-! ### The host's question -/

/-- The bytes, in memory order, of an instruction whose bits are `w` numbered as the opcode table
numbers them: bit 0 is the least significant bit of the one 16-bit word. -/
def tableBytes (w : Nat) : List Byte :=
  [highByte (BitVec.ofNat 16 w), lowByte (BitVec.ofNat 16 w)]

/-- The instruction the decoder reads from a table word: laid out as the hardware stores it, high
byte first (20_memory R75), bits above `nbits` zero. -/
def decodeTableWord (nbits w : Nat) : Option Instr :=
  match decodeBytes (tableBytes (w % 2 ^ nbits)) with
  | .ok (i, _) => some i
  | .error _ => none

end Sys2Proof
end

