-- ==== Sys2Proof/Machine/Operands.lean ====
section
/-! DEFINITION. Operands: the general registers, the immediates as the rules use them, and the values
and addresses that an instruction computes from them (spec/30_encoding.md R102, R103). -/

namespace Sys2Proof.Machine

/-! ### General registers (10_state R30) -/

/-- `V[i]`. -/
def State.reg (s : State) (i : Reg) : Byte := s.regs[i.toNat]

/-- `V[i] <- v`. -/
def State.setReg (s : State) (i : Reg) (v : Byte) : State :=
  { s with regs := s.regs.set i.toNat v }

/-- `V[FLAG] <- v` (10_state R31). -/
def State.setFlag (s : State) (v : Byte) : State := s.setReg s.params.flag v

/-- A result in V[x] first, the flag in VF second, so that with x = F the flag survives (42_load_alu
R200, D10). -/
def State.setResultThenFlag (s : State) (x : Reg) (result flag : Byte) : State :=
  (s.setReg x result).setFlag flag

/-- The register number k of a block transfer, which counts from 0 to x (44_input_timer_misc R300). -/
def regOfNat (k : Nat) : Reg := BitVec.ofNat 4 k

/-- How many registers Fx55 and Fx65 move: V0 to Vx, so x + 1 (30_encoding R103, R300, R301). -/
def blockLength (x : Reg) : Nat := x.toNat + 1

/-! ### Immediates and computed values -/

/-- `zext16(nnn)` (30_encoding R102). -/
def zextAddr (nnn : Addr) : Word := nnn.setWidth 16

/-- `zext16(V)` (00_scope R13). -/
def zextByte (v : Byte) : Word := v.setWidth 16

/-- The target of Bnnn: `zext16(V[0]) + zext16(nnn)`, not reduced to 12 bits (41_control_flow R178). -/
def State.callV0Target (s : State) (nnn : Addr) : Word := zextByte (s.reg 0) + zextAddr nnn

/-- The address of byte `k` of an access from I: an unbounded integer, never wrapped (20_memory R74). -/
def State.dataAddress (s : State) (k : Nat) : Nat := s.index.toNat + k

/-- The glyph address of the digit in the low nibble of `v` (44_input_timer_misc R298). -/
def glyphAddress (p : Params) (v : Byte) : Word :=
  BitVec.ofNat 16 (p.fontBase + p.fontStride * (v &&& 0x0F).toNat)

/-- `v div 100` (44_input_timer_misc R299). -/
def hundredsDigit (v : Byte) : Byte := BitVec.ofNat 8 (v.toNat / 100)

/-- `(v div 10) mod 10` (R299). -/
def tensDigit (v : Byte) : Byte := BitVec.ofNat 8 (v.toNat / 10 % 10)

/-- `v mod 10` (R299). -/
def onesDigit (v : Byte) : Byte := BitVec.ofNat 8 (v.toNat % 10)

/-- Column `c` of a sprite byte: column 0 is bit 7, the leftmost (43_display R262). -/
def spriteBit (b : Byte) (c : Nat) : Bool := b.getLsbD (7 - c)

end Sys2Proof.Machine
end

