-- ==== Sys2Proof/Machine/Ops.lean ====
section
/-! DEFINITION. The named operations that the meanings share: memory with its bounds checks
(spec/20_memory.md), the fetch, raising a fault (spec/60_exceptions.md R341), the stack unit
(spec/10_state.md R58, R59), writes of pc (spec/40_cycle.md R142 to R144), the free inputs
(spec/00_scope.md R18), the framebuffer controller (spec/43_display.md), the sprite draw, the block
transfers, and the timer and tick bookkeeping of the Scheduler (spec/40_cycle.md R147, R148). -/

namespace Sys2Proof.Machine

/-- What a meaning answers. -/
abbrev Result := Host.Outcome State Fault Refusal

/-! ### Reports -/

/-- `report E` (00_scope R17): append an event to the sink; nothing stops. -/
def State.report (s : State) (e : Report) : State := { s with reports := s.reports ++ [e] }

/-! ### Memory as a canonical list of cells -/

/-- The byte at an address; an unlisted address reads as `unlistedByte`. -/
def Memory.get : Memory → Nat → Byte
  | [], _ => unlistedByte
  | (b, v) :: m, a => if a = b then v else Memory.get m a

/-- Put a cell before cells of higher addresses, unless it holds what an unlisted address reads as. -/
def Memory.consCell (a : Nat) (v : Byte) (m : Memory) : Memory :=
  if v = unlistedByte then m else (a, v) :: m

/-- Store a byte at an address, keeping the canonical form. -/
def Memory.set : Memory → Nat → Byte → Memory
  | [], a, v => Memory.consCell a v []
  | (b, w) :: m, a, v =>
    if a < b then Memory.consCell a v ((b, w) :: m)
    else if a = b then Memory.consCell a v m
    else (b, w) :: Memory.set m a v

/-- The canonical form: addresses strictly rising, no byte equal to `unlistedByte`. -/
def Memory.wf (m : Memory) : Bool :=
  decide (m.Pairwise fun c d => c.1 < d.1) && m.all fun c => c.2 != unlistedByte

/-- Whether every listed address is below the capacity. -/
def Memory.within (n : Nat) (m : Memory) : Bool := m.all fun c => decide (c.1 < n)

/-- The memory that holds `bytes` from address `a` on: how a launch image becomes cells. -/
def Memory.ofBytes (a : Nat) : List Byte → Memory
  | [] => []
  | v :: bytes => Memory.consCell a v (Memory.ofBytes (a + 1) bytes)

/-! ### The AddressSpace (20_memory R72, R73) -/

/-- Whether an address is a valid index, 0 to MEM_SIZE - 1. -/
def State.inMemory (s : State) (a : Nat) : Bool := Nat.blt a s.params.memSize

/-- The byte that `MemRead(a)` answers: 0 out of range (20_memory R72). -/
def State.byteAt (s : State) (a : Nat) : Byte := if s.inMemory a then s.mem.get a else 0

/-- `MemRead(a)`: the byte, and the state with the report of an out-of-range read (R72). -/
def memRead (a : Nat) (s : State) : Byte × State :=
  if s.inMemory a then (s.mem.get a, s) else (0, s.report (.outOfBoundsRead a))

/-- `MemWrite(a, v)`: whether it stored, and the state after; an out-of-range write is reported and
stores nothing (R73). -/
def memWrite (a : Nat) (v : Byte) (s : State) : Bool × State :=
  if s.inMemory a then (true, { s with mem := s.mem.set a v })
  else (false, s.report (.outOfBoundsWrite a v))

/-- `Fetch()`: the word at pc and pc + 1, high byte first, each byte bounds-checked, the second
address not wrapped (20_memory R74, R76; 40_cycle R141). -/
def fetch (s : State) : Word × State :=
  match memRead s.pc.toNat s with
  | (hi, s₁) =>
    match memRead (s.pc.toNat + 1) s₁ with
    | (lo, s₂) => (wordOfBytes hi lo, s₂)

/-! ### Faults (60_exceptions R341) -/

/-- `raise k` in the cycle whose word is `w`: the latch is set and the fault reported with the pc of
the faulting instruction; nothing else changes, and the latch keeps the cycle from advancing pc. -/
def raiseFault (k : FaultKind) (w : Word) (s : State) : State :=
  { s with latch := some k, reports := s.reports ++ [.fault k s.pc w] }

/-- The numeric code of the latch (60_exceptions R340). -/
def latchCode : Option FaultKind → Nat
  | none => 0
  | some .stackOverflow => 1
  | some .stackUnderflow => 2
  | some .unknownOpcode => 3

/-- The machine is active iff no fault is latched and it is not closed (40_cycle R150). -/
def State.active (s : State) : Bool := s.latch.isNone && !s.closed

/-! ### Writes of pc (40_cycle R142 to R144) -/

/-- The cycle's advance by one instruction width after a dispatch that raised no fault (R142). -/
def advance (s : State) : State := { s with pc := if s.latch.isNone then s.pc + 2 else s.pc }

/-- A transfer of control to `t` writes the target less one instruction width (R143). -/
def jumpTo (t : Word) (s : State) : State := { s with pc := t - 2 }

/-- A skip whose condition holds adds one instruction width (R144). -/
def skipIf (c : Bool) (s : State) : State := { s with pc := if c then s.pc + 2 else s.pc }

/-! ### The stack unit (10_state R58, R59) -/

/-- `Push(v)`: `none` is StackOverflow, which leaves the stack and sp unchanged (R58). -/
def push (v : Word) (s : State) : Option State :=
  if h : s.sp.toNat < 16 then
    some { s with stack := s.stack.set s.sp.toNat v, sp := s.sp + 1 }
  else none

/-- The answer of a pop: the value and the state after it, StackUnderflow with sp = 0, or no slot
to read with sp above 16, which R37 says is never reached. -/
inductive Popped where
  | ok (v : Word) (s : State)
  | underflow
  | noSlot

/-- `Pop()`: sp goes down and the slot it then names is read and keeps its value (R38, R59). -/
def pop (s : State) : Popped :=
  if s.sp = 0 then .underflow
  else if h : s.sp.toNat - 1 < 16 then .ok s.stack[s.sp.toNat - 1] { s with sp := s.sp - 1 }
  else .noSlot

/-- Calling `t` (41_control_flow R173, R178): push the address of the call itself, then transfer;
a push that overflows raises StackOverflow and nothing is transferred. `w` is the call's word. -/
def callTo (t w : Word) (s : State) : State :=
  match push s.pc s with
  | some s' => jumpTo t s'
  | none => raiseFault .stackOverflow w s

/-! ### Free inputs (00_scope R18) -/

/-- One free input has been drawn: each execution draws afresh (42_load_alu R213, R216). -/
def State.drawn (s : State) : State := { s with inputDraws := s.inputDraws + 1 }

/-- `RandomByte()`: a free value (42_load_alu R216). -/
def State.randomByte (s : State) : Byte := Config.randomByte s.inputDraws

/-- `KeyPressed(k)`: a free value (44_input_timer_misc R290). -/
def State.keyPressed (s : State) (k : Byte) : Bool := Config.keyPressed s.inputDraws k

/-- `KeyWaitPoll()`: a free value, none or a key from 0 to NKEYS - 1 (44_input_timer_misc R290). Log
entry 14: a key is a `u8`, since V[x] takes it whole. -/
def State.keyWaitPoll (s : State) : Option Byte :=
  (Config.keyWaitPoll s.inputDraws).filter fun k => decide (k.toNat < s.params.nkeys)

/-! ### The framebuffer controller (43_display R250 to R259) -/

/-- Whether a coordinate pair is in range (R257). -/
def Framebuffer.inRange (fb : Framebuffer) (x y : Nat) : Bool :=
  decide (x < fb.width) && decide (y < fb.height)

/-- The position of an in-range pixel in `pix`. -/
def Framebuffer.position (fb : Framebuffer) (x y : Nat) : Nat := y * fb.width + x

/-- `fb.pix[x][y]` for an in-range pixel. -/
def Framebuffer.pixel (fb : Framebuffer) (x y : Nat) : Bool :=
  fb.pix.getD (fb.position x y) false

/-- `fb.pix[x][y] <- a`, marking nothing. -/
def Framebuffer.withPixel (fb : Framebuffer) (x y : Nat) (a : Bool) : Framebuffer :=
  { fb with pix := fb.pix.set (fb.position x y) a }

/-- `setPixel` of an in-range pixel: only a new value marks the grid changed (R251, D33). -/
def Framebuffer.setPixel (fb : Framebuffer) (x y : Nat) (a : Bool) : Framebuffer :=
  { fb.withPixel x y a with changed := fb.changed || (fb.pixel x y != a) }

/-- `invertPixel` of an in-range pixel: always a new value (R253). -/
def Framebuffer.invertPixel (fb : Framebuffer) (x y : Nat) : Framebuffer :=
  { fb.withPixel x y (!fb.pixel x y) with changed := true }

/-- `clear()` (R254). -/
def Framebuffer.clear (fb : Framebuffer) : Framebuffer :=
  { fb with pix := fb.pix.map fun _ => false, changed := true }

/-- `invertAll()` (R255). -/
def Framebuffer.invertAll (fb : Framebuffer) : Framebuffer :=
  { fb with pix := fb.pix.map fun b => !b, changed := true }

/-- The framebuffer after `consume()`: the changed flag cleared, nothing else (R259). -/
def Framebuffer.consumed (fb : Framebuffer) : Framebuffer := { fb with changed := false }

/-- A framebuffer has at least one column and row and exactly one Bool per pixel (10_state R49, R51). -/
def Framebuffer.wf (fb : Framebuffer) : Bool :=
  modeWellFormed fb.width fb.height && decide (fb.pix.length = fb.width * fb.height)

/-! ### The sprite draw (43_display R261) -/

/-- One sprite bit at (px, py), both already reduced into range: a 0 bit touches nothing, a 1 bit
inverts the pixel, and inverting an active pixel is a collision. -/
def drawBit (px py : Nat) (bit : Bool) (d : Framebuffer × Bool) : Framebuffer × Bool :=
  if bit then (d.1.invertPixel px py, d.2 || d.1.pixel px py) else d

/-- The first `c` columns of a sprite byte, left to right, each column wrapped (D17). -/
def drawColumns (x0 py : Nat) (b : Byte) : Nat → Framebuffer × Bool → Framebuffer × Bool
  | 0, d => d
  | c + 1, d =>
    match drawColumns x0 py b c d with
    | d' => drawBit ((x0 + c) % d'.1.width) py (spriteBit b c) d'

/-- Row `r` of a sprite whose bytes start at `base`: read its byte, then draw its eight columns. -/
def drawRow (x0 y0 base r : Nat) (d : State × Bool) : State × Bool :=
  match memRead (base + r) d.1 with
  | (b, s) =>
    match drawColumns x0 ((y0 + r) % s.fb.height) b 8 (s.fb, d.2) with
    | (fb, collision) => ({ s with fb := fb }, collision)

/-- The first `n` rows of a sprite, in ascending order, starting with no collision. -/
def drawRows (x0 y0 base : Nat) : Nat → State → State × Bool
  | 0, s => (s, false)
  | r + 1, s => drawRow x0 y0 base r (drawRows x0 y0 base r s)

/-! ### Block transfers (44_input_timer_misc R299 to R301) -/

/-- Fx55's first `k` writes: V0, V1, ... at I, I + 1, ... (R300). -/
def storeBlock : Nat → State → State
  | 0, s => s
  | k + 1, s =>
    match storeBlock k s with
    | t => (memWrite (t.dataAddress k) (t.reg (regOfNat k)) t).2

/-- Fx65's first `k` reads (R301). -/
def loadBlock : Nat → State → State
  | 0, s => s
  | k + 1, s =>
    match loadBlock k s with
    | t =>
      match memRead (t.dataAddress k) t with
      | (b, u) => u.setReg (regOfNat k) b

/-- Fx33's three writes, in ascending order (R299). -/
def storeDigits (v : Byte) (s : State) : State :=
  (memWrite (s.dataAddress 2) (onesDigit v)
    (memWrite (s.dataAddress 1) (tensDigit v)
      (memWrite (s.dataAddress 0) (hundredsDigit v) s).2).2).2

/-! ### Timers and ticks (40_cycle R147, R148) -/

/-- One decrement of a timer: toward zero, never below it (R148). -/
def decrementTimer (t : Byte) : Byte := if t = 0 then 0 else t - 1

/-- `TimerDecrement()` (R148). -/
def timerDecrement (s : State) : State :=
  { s with
    delayTimer := decrementTimer s.delayTimer
    soundTimer := decrementTimer s.soundTimer }

/-- Whether a cycle is due: `acc >= INSTR_PERIOD` (R147 step 3). -/
def State.cycleDue (s : State) : Bool := Nat.ble s.params.instrPeriod s.acc

/-- Whether a timer decrement is due: `tacc >= TIMER_PERIOD` (R147 step 4). -/
def State.decrementDue (s : State) : Bool := Nat.ble s.params.timerPeriod s.tacc

/-- Whether the tick in progress is over: a fault is latched, or neither a cycle nor a timer decrement
is due (R147). -/
def State.tickOver (s : State) : Bool := s.latch.isSome || !(s.cycleDue || s.decrementDue)

/-- The opening of a tick: both accumulators grow by dt, and the count of cycles is 0 (R147). -/
def openTick (dt : Nat) (s : State) : State :=
  { s with acc := s.acc + dt, tacc := s.tacc + dt, tickCount := 0 }

/-- `acc <- acc - INSTR_PERIOD` (R147 step 3). -/
def spendPeriod (s : State) : State := { s with acc := s.acc - s.params.instrPeriod }

/-- `count <- count + 1` (R147 step 3). -/
def countCycle (s : State) : State := { s with tickCount := s.tickCount + 1 }

/-- One turn of the loop of R147 step 4: a period off `tacc`, and `TimerDecrement()`. -/
def timerTurn (s : State) : State :=
  { timerDecrement s with tacc := s.tacc - s.params.timerPeriod }

/-- The loop of R147 step 4, with `n` bounding its turns. -/
def timerLoop : Nat → State → State
  | 0, s => s
  | n + 1, s => if s.decrementDue then timerLoop n (timerTurn s) else s

/-- R147 step 4: the decrements due, none once a fault is latched (D28). Each turn takes one period,
so that the loop has at most `tacc / TIMER_PERIOD` turns. -/
def runTimers (s : State) : State :=
  if s.latch.isNone then timerLoop (s.tacc / s.params.timerPeriod) s else s

/-- The last line of a tick, `lastTickCount <- count` (R147); the count in progress is 0 again. -/
def finishTick (s : State) : State := { s with lastTickCount := s.tickCount, tickCount := 0 }

/-- `finishTick` when the tick is over, field by field, so that what it does not write can be read
without knowing whether the tick is over. -/
def finishTickIfOver (s : State) : State :=
  { s with
    lastTickCount := if s.tickOver then s.tickCount else s.lastTickCount
    tickCount := if s.tickOver then 0 else s.tickCount }

/-- A tick of an inactive machine: it runs nothing (R147, R153). -/
def inactiveTick (dt : Nat) (s : State) : State :=
  { s with acc := s.acc + dt, tacc := s.tacc + dt, tickCount := 0, lastTickCount := 0 }

/-! ### The steps that run no cycle (40_cycle R152)

The time that the host gives a tick is a free value: the next one drawn (log entry 5). -/

/-- The timer step: one timer decrement, which may be the last of its tick. -/
def timerStep (s : State) : State := finishTickIfOver (timerTurn s)

/-- The host opens a tick of free time, which is over at once if that makes nothing due. -/
def timeStep (s : State) : State :=
  { finishTickIfOver (openTick (Config.tickTime s.timeDraws) s) with timeDraws := s.timeDraws + 1 }

/-- A tick of free time on an inactive machine. -/
def inactiveStep (s : State) : State :=
  { inactiveTick (Config.tickTime s.timeDraws) s with timeDraws := s.timeDraws + 1 }

end Sys2Proof.Machine
end

