-- ==== Sys2Proof/Machine/Control.lean ====
section
/-! DEFINITION. Control flow (spec/41_control_flow.md): RET, JP, CALL, the register and immediate
skips, CALL V0. Each meaning is the `Execute` arm of 40_cycle R140: it writes pc biased (R143), and
the cycle advances pc afterwards. -/

namespace Sys2Proof.Machine

/-- `00EE` RET (R171): pop the call's address into pc, or raise StackUnderflow. -/
def execRet (s : State) : Result :=
  match pop s with
  | .ok v t => .next { t with pc := v }
  | .underflow => .next (raiseFault .stackUnderflow (encode .ret) s)
  | .noSlot => .fault .noStackSlot

/-- `1nnn` JP nnn (R172). -/
def execJp (nnn : Addr) (s : State) : Result := .next (jumpTo (zextAddr nnn) s)

/-- `2nnn` CALL nnn (R173). -/
def execCall (nnn : Addr) (s : State) : Result :=
  .next (callTo (zextAddr nnn) (encode (.call nnn)) s)

/-- `3xkk` SE Vx, kk (R174). -/
def execSeImm (x : Reg) (kk : Byte) (s : State) : Result := .next (skipIf (s.reg x == kk) s)

/-- `4xkk` SNE Vx, kk (R175). -/
def execSneImm (x : Reg) (kk : Byte) (s : State) : Result := .next (skipIf (s.reg x != kk) s)

/-- `5xyn` SE Vx, Vy; n is ignored (R176, 30_encoding R109). -/
def execSeReg (x y : Reg) (_n : Nibble) (s : State) : Result :=
  .next (skipIf (s.reg x == s.reg y) s)

/-- `9xyn` SNE Vx, Vy; n is ignored (R177, 30_encoding R109). -/
def execSneReg (x y : Reg) (_n : Nibble) (s : State) : Result :=
  .next (skipIf (s.reg x != s.reg y) s)

/-- `Bnnn` CALL V0, nnn: a call, not a jump (R178, 90_conflicts C11). -/
def execCallV0 (nnn : Addr) (s : State) : Result :=
  .next (callTo (s.callV0Target nnn) (encode (.callV0 nnn)) s)

end Sys2Proof.Machine
end

