-- ==== Sys2Proof/Machine/Display.lean ====
section
/-! DEFINITION. The instructions of the framebuffer: CLS and DRW (spec/43_display.md R260, R261). -/

namespace Sys2Proof.Machine

/-- `00E0` CLS (R260). -/
def execCls (s : State) : Result := .next { s with fb := s.fb.clear }

/-- `Dxyn` DRW Vx, Vy, n: the coordinates and I are read before anything is written, VF is written
last and always (R261). -/
def execDrw (x y : Reg) (n : Nibble) (s : State) : Result :=
  match drawRows (s.reg x).toNat (s.reg y).toNat s.index.toNat n.toNat s with
  | (t, collision) => .next (t.setFlag (collisionFlag collision))

end Sys2Proof.Machine
end

