-- ==== Sys2Proof/Machine/InputTimerMisc.lean ====
section
/-! DEFINITION. Key input, timers, index arithmetic, BCD and the register block transfers: families E
and F (spec/44_input_timer_misc.md). -/

namespace Sys2Proof.Machine

/-- `Ex9E` SKP Vx: the answer is a free input (R291, R290). -/
def execSkp (x : Reg) (s : State) : Result := .next (skipIf (s.keyPressed (s.reg x)) s.drawn)

/-- `ExA1` SKNP Vx (R292, R290). -/
def execSknp (x : Reg) (s : State) : Result := .next (skipIf (!s.keyPressed (s.reg x)) s.drawn)

/-- `Fx07` LD Vx, DT (R293). -/
def execLdVxDt (x : Reg) (s : State) : Result := .next (s.setReg x s.delayTimer)

/-- `Fx0A` LD Vx, K: one poll; with no key, pc goes back one instruction width, so that the cycle's
advance runs the instruction again (R294, 90_conflicts C3). -/
def execLdVxK (x : Reg) (s : State) : Result :=
  match s.keyWaitPoll with
  | none => .next { s.drawn with pc := s.pc - 2 }
  | some k => .next (s.drawn.setReg x k)

/-- `Fx15` LD DT, Vx (R295). -/
def execLdDtVx (x : Reg) (s : State) : Result := .next { s with delayTimer := s.reg x }

/-- `Fx18` LD ST, Vx (R296). -/
def execLdStVx (x : Reg) (s : State) : Result := .next { s with soundTimer := s.reg x }

/-- `Fx1E` ADD I, Vx: wraps modulo 2^16, VF is not written (R297). -/
def execAddI (x : Reg) (s : State) : Result :=
  .next { s with index := s.index + zextByte (s.reg x) }

/-- `Fx29` LD F, Vx (R298). -/
def execLdF (x : Reg) (s : State) : Result :=
  .next { s with index := glyphAddress s.params (s.reg x) }

/-- `Fx33` LD B, Vx (R299). -/
def execLdB (x : Reg) (s : State) : Result := .next (storeDigits (s.reg x) s)

/-- `Fx55` LD [I], Vx (R300). -/
def execStoreRegs (x : Reg) (s : State) : Result := .next (storeBlock (blockLength x) s)

/-- `Fx65` LD Vx, [I] (R301). -/
def execLoadRegs (x : Reg) (s : State) : Result := .next (loadBlock (blockLength x) s)

end Sys2Proof.Machine
end

