-- ==== Sys2Proof/Machine/LoadAlu.lean ====
section
/-! DEFINITION. Loads of immediates, the register ALU, the index load and the random byte
(spec/42_load_alu.md). Family 8 reads its operands before it writes anything; where a result and the
flag are both written, R200 fixes the order. -/

namespace Sys2Proof.Machine

/-- `6xkk` LD Vx, kk (R201). -/
def execLdImm (x : Reg) (kk : Byte) (s : State) : Result := .next (s.setReg x kk)

/-- `7xkk` ADD Vx, kk: wraps, VF is not written (R202). -/
def execAddImm (x : Reg) (kk : Byte) (s : State) : Result := .next (s.setReg x (s.reg x + kk))

/-- `8xy0` LD Vx, Vy (R203). -/
def execLdReg (x y : Reg) (s : State) : Result := .next (s.setReg x (s.reg y))

/-- `8xy1` OR Vx, Vy (R204). -/
def execOrReg (x y : Reg) (s : State) : Result := .next (s.setReg x (s.reg x ||| s.reg y))

/-- `8xy2` AND Vx, Vy (R205). -/
def execAndReg (x y : Reg) (s : State) : Result := .next (s.setReg x (s.reg x &&& s.reg y))

/-- `8xy3` XOR Vx, Vy (R206). -/
def execXorReg (x y : Reg) (s : State) : Result := .next (s.setReg x (s.reg x ^^^ s.reg y))

/-- `8xy4` ADD Vx, Vy (R207). -/
def execAddReg (x y : Reg) (s : State) : Result :=
  .next (s.setResultThenFlag x (s.reg x + s.reg y) (carryFlag (s.reg x) (s.reg y)))

/-- `8xy5` SUB Vx, Vy (R208). -/
def execSubReg (x y : Reg) (s : State) : Result :=
  .next (s.setResultThenFlag x (s.reg x - s.reg y) (noBorrowFlag (s.reg x) (s.reg y)))

/-- `8xy7` SUBN Vx, Vy (R210). -/
def execSubnReg (x y : Reg) (s : State) : Result :=
  .next (s.setResultThenFlag x (s.reg y - s.reg x) (noBorrowFlag (s.reg y) (s.reg x)))

/-- `8xy6` SHR Vx; y is ignored. VF is written first, then V[x] is read again and shifted (R209). -/
def execShr (x _y : Reg) (s : State) : Result :=
  match s.setFlag (shiftedOutRight (s.reg x)) with
  | t => .next (t.setReg x (t.reg x >>> 1))

/-- `8xyE` SHL Vx; y is ignored. VF is written first, then V[x] is read again and shifted (R211). -/
def execShl (x _y : Reg) (s : State) : Result :=
  match s.setFlag (shiftedOutLeft (s.reg x)) with
  | t => .next (t.setReg x (t.reg x <<< 1))

/-- `Annn` LD I, nnn (R212). -/
def execLdI (nnn : Addr) (s : State) : Result := .next { s with index := zextAddr nnn }

/-- `Cxkk` RND Vx, kk: a fresh free byte, masked (R213, R216). -/
def execRnd (x : Reg) (kk : Byte) (s : State) : Result :=
  .next (s.drawn.setReg x (s.randomByte &&& kk))

end Sys2Proof.Machine
end

