-- ==== Sys2Proof/Machine/Scheduler.lean ====
section
/-! DEFINITION. The fetch-decode-execute cycle and the Scheduler (spec/40_cycle.md).

`cycle` is R140. `tick` is R147 itself, written from its text. One step of the machine is one part of a
tick: an instruction step, which is one cycle, or a timer step, which is one timer decrement (R152), or,
when neither is due, the host's opening of the next tick. No step runs both a cycle and a timer
decrement (60_exceptions R347). -/

namespace Sys2Proof.Machine

/-- Go on after a result that is a next state. -/
def andThen (r : Result) (f : State → Result) : Result :=
  match r with
  | .next s => f s
  | .fault e => .fault e
  | .refused e => .refused e

/-- `Execute` and the end of the cycle, for what the fetched word `w` decodes to (R140): an illegal word
raises UnknownOpcode (60_exceptions R344); after a dispatch without a fault pc advances (R142). -/
def dispatch (d : Except Reject Instr) (w : Word) (s : State) : Result :=
  match d with
  | .ok i => andThen (exec i s) fun t => .next (advance t)
  | .error _ => .next (raiseFault .unknownOpcode w s)

/-- One cycle (R140): fetch, decode, dispatch. -/
def cycle (s : State) : Result :=
  match fetch s with
  | (w, t) => dispatch (decodeWord w) w t

/-- One turn of the loop of R147 step 3: a period off `acc`, one cycle, and it is counted. -/
def cycleTurn (s : State) : Result :=
  andThen (cycle (spendPeriod s)) fun t => .next (countCycle t)

/-- The loop of R147 step 3, with `n` bounding its turns. -/
def tickLoop : Nat → State → Result
  | 0, s => .next s
  | n + 1, s =>
    if s.cycleDue && s.latch.isNone then
      andThen (cycleTurn s) fun t => tickLoop n t
    else .next s

/-- `tick(dt)` (R147). Each turn of the loop takes one period, so that the loop has at most
`acc / INSTR_PERIOD` turns. -/
def tick (dt : Nat) (s : State) : Result :=
  if s.active then
    andThen (tickLoop ((openTick dt s).acc / s.params.instrPeriod) (openTick dt s)) fun u =>
      .next (finishTick (runTimers u))
  else .next (inactiveTick dt s)

/-- The instruction step: one cycle (R152), which may be the last part of its tick. -/
def instructionStep (s : State) : Result :=
  andThen (cycleTurn s) fun t => .next (finishTickIfOver t)

/-- One step of the machine. Of an active one: a cycle when one is due, else a timer decrement when one
is due, since every cycle of a tick comes before every decrement of it (R149), else the next tick opens.
An inactive one lets a tick pass that runs nothing (R147, R150, R153). -/
def scheduledStep (s : State) : Result :=
  if s.active then
    if s.cycleDue then instructionStep s
    else if s.decrementDue then .next (timerStep s)
    else .next (timeStep s)
  else .next (inactiveStep s)

/-- Store a byte where it exists, with no report: how `withFetchWord` places an instruction. -/
def placeByte (a : Nat) (v : Byte) (s : State) : State :=
  { s with mem := if s.inMemory a then s.mem.set a v else s.mem }

/-- An instruction placed at pc, high byte first, and one period of time given, so that a cycle is due
and the very next step is that instruction's (20_memory R76, 40_cycle R147). -/
def placeInstruction (hi lo : Byte) (s : State) : State :=
  { placeByte (s.pc.toNat + 1) lo (placeByte s.pc.toNat hi s) with
    acc := if s.cycleDue then s.acc else s.params.instrPeriod }

end Sys2Proof.Machine
end

