-- ==== Sys2Proof/Machine/Step.lean ====
section
/-! DEFINITION. The machine's step, and placing an instruction where it fetches. -/

namespace Sys2Proof.Machine

/-- One step of the machine: one cycle, one timer decrement, or the opening of a tick (spec/40_cycle.md
R140, R147, R152). -/
def step (s : State) : Host.Outcome State Fault Refusal := scheduledStep s

/-- `s` with the instruction whose table word is `w` stored at pc, high byte first, and a cycle due, so
that the next step runs it. Bits above `nbits` are zero. -/
def State.withFetchWord (s : State) (nbits w : Nat) : State :=
  placeInstruction (highByte (BitVec.ofNat 16 (w % 2 ^ nbits)))
    (lowByte (BitVec.ofNat 16 (w % 2 ^ nbits))) s

end Sys2Proof.Machine
end

