-- ==== Sys2Proof/Machine/HostOps.lean ====
section
/-! DEFINITION. The host's interactions with the core (spec/60_exceptions.md R360 to R368), each an
operation on the state. The host acts only between ticks (spec/20_memory.md R83, D44). No step of the
machine performs one of these but the passing of ticks: R368 says of a model "A model gives these no
move"; log entry 7. -/

namespace Sys2Proof.Machine

/-- A call of the self-test pattern generator (43_display R256). -/
inductive PatternCall where
  | setPixel (x y : Int) (active : Bool)
  | clear
  | invertAll
  deriving DecidableEq, Repr

/-- What the host may do between ticks (60_exceptions R368). Key and random answers are the free
inputs of a cycle, not host operations. -/
inductive HostOp where
  /-- The loader writes the program image from LOAD_ADDR on, and gets the answer `loadSuccess` (R360,
  20_memory R89: before the first tick; log entry 17 on the states after it). -/
  | load (image : List Byte)
  /-- `tick(dt)` (40_cycle R147). -/
  | tick (dt : Nat)
  /-- `consume()`, whose answer is the grid of `consume` (43_display R259). -/
  | consume
  /-- `setMode(w, h)` (43_display R250). -/
  | setMode (w h : Nat)
  /-- `setPixel(x, y, active)` (43_display R251). -/
  | setPixel (x y : Int) (active : Bool)
  /-- `getPixel(x, y)`, whose answer is `getPixel` (43_display R252). -/
  | getPixel (x y : Int)
  /-- `invertPixel(x, y)` (43_display R253). -/
  | invertPixel (x y : Int)
  /-- `clear()` (43_display R254). -/
  | clear
  /-- `invertAll()` (43_display R255). -/
  | invertAll
  /-- The self-test pattern generator: its pattern is not given, so any sequence of its calls
  (43_display R256, 93_implementation_defined I14). -/
  | selfTest (calls : List PatternCall)
  /-- The display surface has been closed (60_exceptions R362). -/
  | close
  /-- Reset: tearing down and constructing again from a launch image (70_reset_and_hazards R380). The
  free inputs and times go on being drawn afresh (log entry 16). -/
  | reset (image : List Byte)
  deriving DecidableEq, Repr

/-- Writing bytes from address `a` on, byte by byte, each with the bounds behaviour of `MemWrite`
(60_exceptions R360). -/
def loadBytes (a : Nat) : List Byte → State → State
  | [], s => s
  | v :: image, s => loadBytes (a + 1) image (memWrite a v s).2

/-- What the loader's caller gets back: the success of each byte's write (60_exceptions R368). -/
def loadSuccess (a : Nat) : List Byte → State → List Bool
  | [], _ => []
  | v :: image, s => (memWrite a v s).1 :: loadSuccess (a + 1) image (memWrite a v s).2

/-- Whether integer coordinates are in range (43_display R257). -/
def pixelInRange (x y : Int) (fb : Framebuffer) : Bool :=
  decide (0 ≤ x) && decide (0 ≤ y) && fb.inRange x.toNat y.toNat

/-- A framebuffer operation on one pixel: out of range it is reported and does nothing (R257). -/
def onPixel (x y : Int) (f : Framebuffer → Framebuffer) (s : State) : State :=
  if pixelInRange x y s.fb then { s with fb := f s.fb } else s.report (.outOfBoundsPixel x y)

/-- What `getPixel(x, y)` answers: out of range, inactive (43_display R252, D33). -/
def getPixel (x y : Int) (s : State) : Bool :=
  pixelInRange x y s.fb && s.fb.pixel x.toNat y.toNat

/-- The copy of the framebuffer's mode and pixels that the presentation collaborator gets (43_display
R259), row by row as in `Framebuffer`. -/
structure Grid where
  width : Nat
  height : Nat
  pix : List Bool
  deriving DecidableEq, Repr

/-- `consume()`: the grid, and the state after it, in which the changed flag alone is cleared
(43_display R259). -/
def consume (s : State) : Grid × State :=
  ({ width := s.fb.width, height := s.fb.height, pix := s.fb.pix }, { s with fb := s.fb.consumed })

/-- One call of the self-test pattern generator, as the framebuffer operation it is (43_display R251,
R254, R255). -/
def patternCall (c : PatternCall) (s : State) : State :=
  match c with
  | .setPixel x y a => onPixel x y (fun fb => fb.setPixel x.toNat y.toNat a) s
  | .clear => { s with fb := s.fb.clear }
  | .invertAll => { s with fb := s.fb.invertAll }

/-- Construction from parameters and a launch image of bytes from address 0 on, where `reserved` says
whether the backing storage could be reserved. `none` is a ConstructionFailure: it has no state and no
step (60_exceptions R346, 00_scope R11, 70_reset_and_hazards R380). DESIGN CHOICE (log entry 2): the spec
takes an image of MEM_SIZE bytes (10_state R52) and says nothing of another length; the bytes of a longer
one beyond MEM_SIZE are dropped without a report, and a shorter one is completed with 0x00. -/
def constructMachine (p : Params) (reserved : Bool) (image : List Byte) : Option State :=
  if reserved && p.wellFormed then
    some (State.construct p (Memory.ofBytes 0 (image.take p.memSize)))
  else none

/-- A host operation on a constructed machine. `none` says that there is no such operation: a `setMode`
with no column or no row is outside its precondition (43_display R250, D34; log entry 8), and a reset
that cannot be constructed leaves no machine (60_exceptions R346). DESIGN CHOICE (log entry 16): a reset
constructs everything anew but the model's own counts of draws, which go on, so that no answer of the host
after it is bound to one from before it; R380 says nothing of those answers. DESIGN CHOICE (log entry 17):
an operation is a function of every state. The spec admits no loader write after the first tick (20_memory
R89, D4) and no operation within a tick (D44), and gives none an effect there; the model does not look at
when, and the operation does in such a state what it does in any other. -/
def hostOp (o : HostOp) (s : State) : Option Result :=
  match o with
  | .load image => some (.next (loadBytes s.params.loadAddr image s))
  | .tick dt => some (tick dt s)
  | .consume => some (.next (consume s).2)
  | .setMode w h =>
    if modeWellFormed w h then some (.next { s with fb := Framebuffer.blank w h }) else none
  | .setPixel x y a => some (.next (onPixel x y (fun fb => fb.setPixel x.toNat y.toNat a) s))
  | .getPixel x y => some (.next (onPixel x y id s))
  | .invertPixel x y => some (.next (onPixel x y (fun fb => fb.invertPixel x.toNat y.toNat) s))
  | .clear => some (.next { s with fb := s.fb.clear })
  | .invertAll => some (.next { s with fb := s.fb.invertAll })
  | .selfTest calls => some (.next (calls.foldl (fun t c => patternCall c t) s))
  | .close => some (.next { s with closed := true })
  | .reset image => (constructMachine s.params true image).map fun t =>
    .next { t with inputDraws := s.inputDraws, timeDraws := s.timeDraws }

/-- What the telemetry collaborator reads: V, pc, sp, the stack, lastTickCount and ST; reading changes
nothing (60_exceptions R364, 10_state R60). DESIGN CHOICE (log entry 15): 10_state R40 says that the
telemetry collaborator can read ST, R364 and R368 do not list it; the model lists it. -/
structure Telemetry where
  regs : Vector Byte 16
  pc : Word
  sp : Byte
  stack : Vector Word 16
  soundTimer : Byte
  lastTickCount : Nat
  deriving DecidableEq, Repr

/-- The telemetry collaborator's view of a state (60_exceptions R364; ST by 10_state R40, log entry 15). -/
def telemetryOf (s : State) : Telemetry where
  regs := s.regs
  pc := s.pc
  sp := s.sp
  stack := s.stack
  soundTimer := s.soundTimer
  lastTickCount := s.lastTickCount

end Sys2Proof.Machine
end

