-- ==== Sys2Proof/Safety.lean ====
section
/-! DEFINITION. What counts as a legal state of the machine, and the terms in which claims about its
runs are stated. Each condition is the spec's own about every state that construction and steps
produce; the model keeps them as an invariant, not in its types. -/

namespace Sys2Proof.Machine

/-- `sp` counts occupied slots: "stack pointer in [0, 16]" (10_state R37). -/
def State.spLegal (s : State) : Prop := s.sp.toNat ≤ 16

/-- The memory is in its canonical form and lists no address beyond the capacity (10_state R52). -/
def State.memLegal (s : State) : Prop :=
  s.mem.wf = true ∧ s.mem.within s.params.memSize = true

/-- Between two ticks, which is when nothing is due, no cycle has been counted (40_cycle R147). -/
def State.timeLegal (s : State) : Prop :=
  s.active = true → s.cycleDue = false → s.decrementDue = false → s.tickCount = 0

/-- Whether an event is the report of a latched fault. -/
def Report.isFault : Report → Bool
  | .fault _ _ _ => true
  | _ => false

/-- How many faults the sink holds. -/
def faultReports (l : List Report) : Nat := l.countP Report.isFault

/-- A latched fault is reported exactly once, and nothing else is reported as one (60_exceptions
R352). -/
def State.reportLegal (s : State) : Prop :=
  faultReports s.reports = if s.latch.isSome then 1 else 0

/-- The invariant of the machine. -/
structure State.Inv (s : State) : Prop where
  /-- The construction constraints of 00_scope R11 still hold. -/
  params : s.params.wellFormed = true
  /-- 10_state R37. -/
  sp : s.spLegal
  /-- 10_state R49, R51. -/
  fb : s.fb.wf = true
  /-- 10_state R52. -/
  mem : s.memLegal
  /-- 40_cycle R147. -/
  time : s.timeLegal
  /-- 60_exceptions R352. -/
  report : s.reportLegal

/-! ### The reports of memory accesses (20_memory R72, R73, R88) -/

/-- The report of a read of one byte: none in range (20_memory R72). -/
def readReports (s : State) (a : Nat) : List Report :=
  if s.inMemory a then [] else [.outOfBoundsRead a]

/-- The report of a write of one byte: none in range (20_memory R73). -/
def writeReports (s : State) (a : Nat) (v : Byte) : List Report :=
  if s.inMemory a then [] else [.outOfBoundsWrite a v]

/-- The reports of a fetch: of the byte at pc, then of the byte at pc + 1 (20_memory R76). -/
def fetchReports (s : State) : List Report :=
  readReports s s.pc.toNat ++ readReports s (s.pc.toNat + 1)

/-- The reports of the writes of `k` registers from I on, in ascending order (20_memory R88). -/
def storeReports (s : State) : Nat → List Report
  | 0 => []
  | k + 1 => storeReports s k ++ writeReports s (s.dataAddress k) (s.reg (regOfNat k))

/-- The reports of the reads of `k` bytes from I on, in ascending order (20_memory R88). -/
def loadReports (s : State) : Nat → List Report
  | 0 => []
  | k + 1 => loadReports s k ++ readReports s (s.dataAddress k)

/-- The reports of the reads of a sprite's first `n` bytes from `base` on (20_memory R88). -/
def spriteReports (s : State) (base : Nat) : Nat → List Report
  | 0 => []
  | r + 1 => spriteReports s base r ++ readReports s (base + r)

/-- The reports of the loader's writes of an image from address `a` on, in ascending order (20_memory
R73, R89). -/
def imageReports (s : State) (a : Nat) : List Byte → List Report
  | [] => []
  | v :: image => writeReports s a v ++ imageReports s (a + 1) image

/-! ### Terms of the claims about instructions -/

/-- Every word that selects the row (mask, match) of the opcode map is the instruction `f` of it: the
"Encoding" line of an instruction's rule (41_control_flow R170). -/
def DecodesRow (mask m : Word) (f : Word → Instr) : Prop :=
  ∀ w, selectsRow w (mask, m) = true → decodeWord w = .ok (f w)

/-- A state that no fault has stopped, with the latch set by a fault of kind `k` in the cycle whose
word is `w`: only the latch and one more report (60_exceptions R341). -/
def FaultsWith (s t : State) (k : FaultKind) (w : Word) : Prop :=
  t = { s with latch := some k, reports := s.reports ++ [.fault k s.pc w] }

/-- The instruction completes, its registers afterwards are `f`, and nothing else in the state has
changed: no other register, memory, framebuffer, report, timer, stack slot or pc. -/
def CompletesInRegs (i : Instr) (s : State) (f : Reg → Byte) : Prop :=
  ∃ t, exec i s = .next t ∧ t = { s with regs := t.regs } ∧ ∀ r, t.reg r = f r

/-- The word that a fetch reads in `s`: the bytes at pc and pc + 1, high byte first (20_memory R76). -/
def State.fetchedWord (s : State) : Word :=
  wordOfBytes (s.byteAt s.pc.toNat) (s.byteAt (s.pc.toNat + 1))

/-- The slot that a pop reads: `stack[sp - 1]` (10_state R59); 0 where there is no such slot. -/
def State.stackTop (s : State) : Word := s.stack.toList.getD (s.sp.toNat - 1) 0

/-- The general registers that an instruction may write on a machine whose flag register is `flag`
(10_state R31, R32). -/
def mayWriteReg (flag : Reg) : Instr → Reg → Bool
  | .ldImm x _, r | .addImm x _, r | .ldReg x _, r | .orReg x _, r | .andReg x _, r
  | .xorReg x _, r | .rnd x _, r | .ldVxDt x, r | .ldVxK x, r => r == x
  | .addReg x _, r | .subReg x _, r | .shr x _, r | .subnReg x _, r | .shl x _, r =>
    r == x || r == flag
  | .drw _ _ _, r => r == flag
  | .loadRegs x, r => decide (r.toNat ≤ x.toNat)
  | _, _ => false

/-- The pc at the start of the next cycle, for an instruction that raises no fault (40_cycle R145). -/
def nextPc (i : Instr) (s : State) : Word :=
  match i with
  | .jp nnn => nnn.setWidth 16
  | .call nnn => nnn.setWidth 16
  | .callV0 nnn => (s.reg 0).setWidth 16 + nnn.setWidth 16
  | .ret => s.stackTop + 2
  | .seImm x kk => if s.reg x = kk then s.pc + 4 else s.pc + 2
  | .sneImm x kk => if s.reg x ≠ kk then s.pc + 4 else s.pc + 2
  | .seReg x y _ => if s.reg x = s.reg y then s.pc + 4 else s.pc + 2
  | .sneReg x y _ => if s.reg x ≠ s.reg y then s.pc + 4 else s.pc + 2
  | .skp x => if Config.keyPressed s.inputDraws (s.reg x) = true then s.pc + 4 else s.pc + 2
  | .sknp x => if Config.keyPressed s.inputDraws (s.reg x) = true then s.pc + 2 else s.pc + 4
  | .ldVxK _ => if s.keyWaitPoll = none then s.pc else s.pc + 2
  | _ => s.pc + 2

/-- Whether sprite bit (r, c) of a draw from (x0, y0) is 1 and lands on pixel (px, py): row r of the
sprite is the byte at `base + r`, each coordinate wraps by the mode (43_display R261). -/
def spriteHit (s : State) (x0 y0 base px py r c : Nat) : Bool :=
  spriteBit (s.byteAt (base + r)) c && (x0 + c) % s.fb.width == px && (y0 + r) % s.fb.height == py

/-- How many of the sprite bits of a draw of `n` rows are 1 and land on pixel (px, py). -/
def spriteHits (s : State) (x0 y0 base n px py : Nat) : Nat :=
  ((List.range n).map fun r => (List.range 8).countP fun c => spriteHit s x0 y0 base px py r c).sum

end Sys2Proof.Machine
end

