-- ==== Sys2Proof/Certificates/Slice0/Obligations.lean ====
section
/-! DEFINITION. The statements for the provers, from the numbered rules of spec/. Each is about every
state (or every state that meets the named part of the machine's invariant), every operand and every
choice of the parameters of 00_scope R10; none is about a program. -/

open Sys2Proof Sys2Proof.Machine

/-! ### Encoding (30_encoding) -/

/-- Words written out from the encodings of the spec decode to the instruction they stand for
(30_encoding R104, R110; the words are those of 95_test_vectors). -/
def Obligations.SpecWordsDecode : Prop :=
  decodeWord 0x00E0 = .ok .cls ∧ decodeWord 0x00EE = .ok .ret ∧
  decodeWord 0x1234 = .ok (.jp 0x234) ∧ decodeWord 0x2210 = .ok (.call 0x210) ∧
  decodeWord 0x3342 = .ok (.seImm 3 0x42) ∧ decodeWord 0x512F = .ok (.seReg 1 2 0xF) ∧
  decodeWord 0x8124 = .ok (.addReg 1 2) ∧ decodeWord 0x812E = .ok (.shl 1 2) ∧
  decodeWord 0xB300 = .ok (.callV0 0x300) ∧ decodeWord 0xC10F = .ok (.rnd 1 0x0F) ∧
  decodeWord 0xD122 = .ok (.drw 1 2 2) ∧ decodeWord 0xE5A1 = .ok (.sknp 5) ∧
  decodeWord 0xF265 = .ok (.loadRegs 2) ∧ decodeWord 0x0000 = .error .family0 ∧
  decodeWord 0x800F = .error .family8 ∧ decodeWord 0xE09F = .error .familyE ∧
  decodeWord 0xF017 = .error .familyF

/-- Decoding the encoding of any instruction gives it back with every operand, from its word and from
its bytes, whatever bytes follow (30_encoding R100 to R104, R110; 20_memory R75). -/
def Obligations.DecodeOfEncodeIsTheInstruction : Prop :=
  ∀ (i : Instr) (rest : List Byte),
    decodeWord (encode i) = .ok i ∧ decodeBytes (encodeBytes i ++ rest) = .ok (i, rest)

/-- A word that decodes is the encoding of what it decodes to: no bit of a legal word is dropped. -/
def Obligations.EncodeOfDecodeIsTheWord : Prop :=
  ∀ (w : Word) (i : Instr), decodeWord w = .ok i → encode i = w

/-- The opcode map has 34 rows, no word selects two of them, and a word is an instruction iff it
selects a row, which is then the row of its instruction (30_encoding R110, R112). -/
def Obligations.OpcodeRowsPartitionTheLegalWords : Prop :=
  opcodeRows.length = 34 ∧
  (∀ (w : Word) (a b : Fin 34), selectsRow w (opcodeRows.getD a (0, 0)) = true →
    selectsRow w (opcodeRows.getD b (0, 0)) = true → a = b) ∧
  (∀ w : Word, (∃ i, decodeWord w = .ok i) ↔ ∃ row ∈ opcodeRows, selectsRow w row = true) ∧
  ∀ (w : Word) (i : Instr), decodeWord w = .ok i →
    opcodeRow i ∈ opcodeRows ∧ selectsRow w (opcodeRow i) = true

/-! ### Construction and reset (70_reset_and_hazards) -/

/-- What construction, which is also reset, leaves, for every choice of the parameters and every launch
image (70_reset_and_hazards R381); the spec's ENTRY_PC is 0x0000. -/
def Obligations.ResetLeavesTheZeroedState : Prop :=
  (∀ (p : Params) (image : Memory), ∃ s, s = State.construct p image ∧ s.params = p ∧
    (∀ r, s.reg r = 0) ∧ s.index = 0 ∧ s.pc = p.entryPc ∧ s.sp = 0 ∧
    (∀ j : Fin 16, s.stack[j.val] = 0) ∧ s.delayTimer = 0 ∧ s.soundTimer = 0 ∧ s.latch = none ∧
    s.closed = false ∧ s.acc = 0 ∧ s.tacc = 0 ∧ s.lastTickCount = 0 ∧
    s.fb.width = p.fbWidth ∧ s.fb.height = p.fbHeight ∧ (∀ x y, s.fb.pixel x y = false) ∧
    s.fb.changed = true ∧ s.mem = image ∧ s.reports = [] ∧ s.active = true) ∧
  Params.default.entryPc = 0x0000

/-- The machine right after reset is the one constructed from the spec's default parameters, and the
machine's invariant holds in it. The launch image that lists nothing and the value of the periods in the
model's unit of time are the model's choice (log entries 2 and 3). -/
def Obligations.LegalAtReset : Prop :=
  State.reset = State.construct Params.default [] ∧ State.reset.Inv

/-- Construction succeeds only with its storage reserved and its parameters within their constraints
(00_scope R11, 60_exceptions R346), and what it then yields is an active machine in a legal state
whose memory holds the launch image; reset is construction again (70_reset_and_hazards R380). That bytes
beyond MEM_SIZE are dropped and missing ones read 0x00 is the model's choice (log entry 2), and so is
that a reset lets its counts of draws go on (log entry 16). -/
def Obligations.ConstructionYieldsALegalMachineOrNone : Prop :=
  (∀ p image, constructMachine p false image = none) ∧
  (∀ p r image, p.wellFormed = false → constructMachine p r image = none) ∧
  (∀ p image, p.wellFormed = true → ∃ s, constructMachine p true image = some s ∧ s.Inv ∧
    s.active = true ∧ s.params = p ∧ ∀ k, k < p.memSize → s.byteAt k = image.getD k 0) ∧
  ∀ (s : State) (image : List Byte), s.params.wellFormed = true →
    ∃ t u, constructMachine s.params true image = some t ∧
      hostOp (.reset image) s = some (.next u) ∧
      u = { t with inputDraws := s.inputDraws, timeDraws := s.timeDraws } ∧ u.Inv

/-! ### The step, the cycle and the Scheduler (40_cycle) -/

/-- When a cycle is due and the bytes at pc decode to `i`, a step of an active machine is `exec` of `i` on
the state with the period spent and the fetch's reports added, and around it: pc advances unless a fault
was raised, the cycle is counted, and the tick's count is written if the tick is over (40_cycle R140 to
R142, R147, R152). That a tick's last line belongs to its last step is the model's choice (log entry 5,
DESIGN CHOICE). -/
def Obligations.StepRunsTheDecodedInstruction : Prop :=
  ∀ (s : State) (i : Instr), s.active = true → s.cycleDue = true →
    decodeWord s.fetchedWord = .ok i →
    step s = andThen (exec i { spendPeriod s with reports := s.reports ++ fetchReports s })
      (fun t => .next (finishTickIfOver (countCycle (advance t))))

/-- A step of an active machine with a cycle due whose bytes at pc are an illegal word latches
UnknownOpcode with pc at that word, reports it after the reports of the fetch, spends the period and ends
the tick with the cycle counted, and changes nothing else: not pc, V, I, sp, the stack, the timers, memory
or the framebuffer (60_exceptions R344, R341, R347; 30_encoding R112; 40_cycle R147). That the tick's last
line belongs to this step is the model's choice (log entry 5, DESIGN CHOICE). -/
def Obligations.IllegalWordLatchesUnknownOpcode : Prop :=
  ∀ (s : State) (r : Reject), s.active = true → s.cycleDue = true →
    decodeWord s.fetchedWord = .error r →
    step s = .next { s with
      latch := some .unknownOpcode
      reports := s.reports ++ fetchReports s ++ [.fault .unknownOpcode s.pc s.fetchedWord]
      acc := s.acc - s.params.instrPeriod
      tickCount := 0, lastTickCount := s.tickCount + 1 }

/-- The fetch reads the bytes at pc and pc + 1, high byte first, the second address not wrapped, an
out-of-range byte as 0 with its report, and changes nothing else; a fetch wholly out of range reads
0x0000, which is illegal (20_memory R76, R72, R74). -/
def Obligations.FetchIsBigEndianAndBoundsChecked : Prop :=
  ∀ s : State, ((fetch s).1).toNat =
      (s.byteAt s.pc.toNat).toNat * 256 + (s.byteAt (s.pc.toNat + 1)).toNat ∧
    (fetch s).2 = { s with reports := s.reports ++ fetchReports s } ∧
    (s.params.memSize ≤ s.pc.toNat →
      (fetch s).1 = 0x0000 ∧ decodeWord 0x0000 = .error .family0)

/-- The pc after a cycle, for every instruction (40_cycle R145): where no fault is raised, the table's
entry; where one is, the address of the instruction. -/
def Obligations.NextPcIsTheTablesEntry : Prop :=
  ∀ (i : Instr) (s t : State), s.latch = none → exec i s = .next t →
    (t.latch = none → (advance t).pc = nextPc i s) ∧ (t.latch ≠ none → (advance t).pc = s.pc)

/-- A tick of an inactive machine runs no cycle and no timer decrement: it changes the accumulators and
the counts alone (40_cycle R147, R150, R153). That a step of an inactive machine is such a tick, of a
free time, is the model's reading (log entry 10, DEDUCED; log entry 5, DESIGN CHOICE). -/
def Obligations.InactiveMachineOnlyLetsTimePass : Prop :=
  ∀ s : State, s.active = false →
    (∀ dt, tick dt s =
      .next { s with acc := s.acc + dt, tacc := s.tacc + dt, tickCount := 0, lastTickCount := 0 }) ∧
    ∃ dt, step s = .next { s with
      acc := s.acc + dt, tacc := s.tacc + dt, tickCount := 0, lastTickCount := 0
      timeDraws := s.timeDraws + 1 }

/-- Once a fault is latched, no run, of any length, changes the latch, pc, V, I, sp, the stack, the
timers, memory, the framebuffer or the sink (40_cycle R153; 60_exceptions R345, R352), in runs in which
the host does not act (log entry 7: R153 lets it operate the framebuffer). That such a run goes on is
the model's reading (log entry 10, DEDUCED): its steps are ticks that run nothing. -/
def Obligations.LatchedFaultFreezesEveryRun : Prop :=
  ∀ (s : State) (n : Nat), s.latch ≠ none → ∃ t, core.run n s = .next t ∧
    t.latch = s.latch ∧ t.pc = s.pc ∧ t.regs = s.regs ∧ t.index = s.index ∧ t.sp = s.sp ∧
    t.stack = s.stack ∧ t.delayTimer = s.delayTimer ∧ t.soundTimer = s.soundTimer ∧
    t.mem = s.mem ∧ t.fb = s.fb ∧ t.reports = s.reports

/-- A tick of an active machine that ends without a fault has run `(acc + dt) / INSTR_PERIOD` cycles
and leaves the remainders in both accumulators; one that faults has run fewer or as many, and leaves
the unspent time in `acc` and the timer domain's accumulator undiminished (40_cycle R147, R151). And
after the tick's cycles, which are as many instruction steps from its opening, the tick takes from each
timer the decrements due, toward zero and no further; when a cycle faulted it takes none (40_cycle R147
step 4, R148, R149). -/
def Obligations.TickRunsAsManyCyclesAsPeriodsFit : Prop :=
  ∀ (s t : State) (dt : Nat), s.active = true → 0 < s.params.instrPeriod → tick dt s = .next t →
    (t.latch = none →
      t.lastTickCount = (s.acc + dt) / s.params.instrPeriod ∧
      t.acc = (s.acc + dt) % s.params.instrPeriod ∧
      t.tacc = (s.tacc + dt) % s.params.timerPeriod) ∧
    (t.latch ≠ none →
      0 < t.lastTickCount ∧ t.lastTickCount * s.params.instrPeriod + t.acc = s.acc + dt ∧
      t.tacc = s.tacc + dt) ∧
    ∃ v, core.run t.lastTickCount (openTick dt s) = .next v ∧ v.latch = t.latch ∧
      (t.latch = none →
        t.delayTimer.toNat = v.delayTimer.toNat - (s.tacc + dt) / s.params.timerPeriod ∧
        t.soundTimer.toNat = v.soundTimer.toNat - (s.tacc + dt) / s.params.timerPeriod) ∧
      (t.latch ≠ none → t.delayTimer = v.delayTimer ∧ t.soundTimer = v.soundTimer)

/-- A tick in which no cycle is due runs the timer decrements that the time makes due, each timer
toward zero and no further, and nothing else (40_cycle R147, R148, R151). -/
def Obligations.TickWithoutCyclesOnlyCountsTimersDown : Prop :=
  ∀ (s : State) (dt : Nat), s.active = true → s.acc + dt < s.params.instrPeriod →
    ∃ t, tick dt s = .next t ∧
      t = { s with
        acc := s.acc + dt, tacc := t.tacc, delayTimer := t.delayTimer, soundTimer := t.soundTimer
        tickCount := 0, lastTickCount := 0 } ∧
      t.tacc = (s.tacc + dt) % s.params.timerPeriod ∧
      t.delayTimer.toNat = s.delayTimer.toNat - (s.tacc + dt) / s.params.timerPeriod ∧
      t.soundTimer.toNat = s.soundTimer.toNat - (s.tacc + dt) / s.params.timerPeriod

/-- A tick in which something is due is a run of steps: from its opening, as many instruction steps as it
counted cycles and then as many timer steps as decrements are due, none after a fault, lead to the very
state that the tick leaves (40_cycle R147, R149, R152). That the tick's last line belongs to its last step
is the model's choice (log entry 5, DESIGN CHOICE). -/
def Obligations.TickIsARunOfSteps : Prop :=
  ∀ (s t : State) (dt : Nat), s.active = true →
    0 < s.params.instrPeriod → 0 < s.params.timerPeriod →
    (s.params.instrPeriod ≤ s.acc + dt ∨ s.params.timerPeriod ≤ s.tacc + dt) →
    tick dt s = .next t →
    core.run (t.lastTickCount +
      if t.latch = none then (s.tacc + dt) / s.params.timerPeriod else 0) (openTick dt s) = .next t

/-- A step that runs a cycle runs no timer decrement, whether the tick goes on or is over: the timers
change by Fx15 and Fx18 alone, and the timer domain's accumulator stays (60_exceptions R347, 40_cycle
R149). It spends one period and counts one cycle; the count becomes the tick's when a fault is latched or
nothing is due any more (40_cycle R147). That it does in this step is the model's choice (log entry 5). -/
def Obligations.TimersWaitForTheEndOfTheTick : Prop :=
  ∀ s t : State, s.active = true → s.cycleDue = true → step s = .next t →
    ((∀ x, decodeWord s.fetchedWord ≠ .ok (.ldDtVx x)) → t.delayTimer = s.delayTimer) ∧
    ((∀ x, decodeWord s.fetchedWord ≠ .ok (.ldStVx x)) → t.soundTimer = s.soundTimer) ∧
    t.tacc = s.tacc ∧ t.acc + s.params.instrPeriod = s.acc ∧
    if t.latch = none ∧ (t.cycleDue = true ∨ t.decrementDue = true) then
      t.tickCount = s.tickCount + 1 ∧ t.lastTickCount = s.lastTickCount
    else t.tickCount = 0 ∧ t.lastTickCount = s.tickCount + 1

/-- `TimerDecrement`, which the timer step and the tick run, takes 1 from each nonzero timer and leaves a
timer at 0, and changes nothing else (40_cycle R148). -/
def Obligations.TimerDecrementStopsAtZero : Prop :=
  ∀ s : State, ∃ t, timerDecrement s = t ∧
    t = { s with delayTimer := t.delayTimer, soundTimer := t.soundTimer } ∧
    t.delayTimer.toNat = s.delayTimer.toNat - 1 ∧ t.soundTimer.toNat = s.soundTimer.toNat - 1

/-! ### Invariants and whole-machine rules -/

/-- Every step keeps the machine's invariant: the parameters' constraints, sp in 0 to 16, one pixel for
each position of the mode, memory canonical and within the capacity, no cycle counted between ticks, and
one report for a latched fault, none without. -/
def Obligations.EveryStepKeepsTheInvariant : Prop :=
  ∀ s t : State, s.Inv → step s = .next t → t.Inv

/-- From a legal state a run of any length goes on: the machine never stops with a fault or a refusal
of the model, and the state stays legal. That a run goes on after a latched fault or a close is the
model's reading (log entry 10, DEDUCED), its steps being ticks that run nothing: 40_cycle R154 ends a run
there. -/
def Obligations.LegalMachineNeverStops : Prop :=
  ∀ (s : State) (n : Nat), s.Inv → ∃ t, core.run n s = .next t ∧ t.Inv

/-- No step changes the parameters, the mode of the framebuffer or the closed flag: those are the
host's (10_state R46, R49; 00_scope R10). -/
def Obligations.StepKeepsParametersModeAndClosed : Prop :=
  ∀ s t : State, step s = .next t → t.params = s.params ∧ t.fb.width = s.fb.width ∧
    t.fb.height = s.fb.height ∧ t.closed = s.closed

/-- A step reports a fault exactly when it latches one, and then once (60_exceptions R352). -/
def Obligations.FaultIsReportedOnceWhenLatched : Prop :=
  ∀ s t : State, step s = .next t → faultReports t.reports =
    faultReports s.reports + if s.latch = none ∧ t.latch ≠ none then 1 else 0

/-- The sink is an append-only output that no rule of the core reads: with any other sink a step
does the same, and appends the same events (10_state R53). -/
def Obligations.ReportsAreAnAppendOnlyOutput : Prop :=
  ∀ (s : State) (other : List Report),
    (∀ t, step s = .next t → ∃ new, t.reports = s.reports ++ new ∧
      step { s with reports := other } = .next { t with reports := other ++ new }) ∧
    (∀ f, step s = .fault f → step { s with reports := other } = .fault f) ∧
    ∀ r, step s = .refused r → step { s with reports := other } = .refused r

/-- The only faults of legal instructions are StackOverflow of the two calls with no free slot and
StackUnderflow of RET on the empty stack, and each is precise: it leaves the state as it was but for
the latch and its report (60_exceptions R340 to R343, R347; 40_cycle R146). -/
def Obligations.OnlyCallsAndReturnsFaultAndPrecisely : Prop :=
  ∀ (i : Instr) (s t : State) (k : FaultKind), s.latch = none → exec i s = .next t →
    t.latch = some k → FaultsWith s t k (encode i) ∧
      ((k = .stackOverflow ∧ 16 ≤ s.sp.toNat ∧ ∃ nnn, i = .call nnn ∨ i = .callV0 nnn) ∨
        (k = .stackUnderflow ∧ s.sp = 0 ∧ i = .ret))

/-- Every general register that an instruction changes is one that the table of 10_state R32 lets it
write. -/
def Obligations.OnlyTheTabledRegistersAreWritten : Prop :=
  ∀ (i : Instr) (s t : State), exec i s = .next t →
    ∀ r, mayWriteReg s.params.flag i r = false → t.reg r = s.reg r

/-- I is written by Annn, Fx1E and Fx29 alone, DT by Fx15 and ST by Fx18 among instructions (10_state
R33, R39, R40). -/
def Obligations.IndexAndTimersHaveTheirOnlyWriters : Prop :=
  ∀ (i : Instr) (s t : State), exec i s = .next t →
    ((∀ nnn, i ≠ .ldI nnn) → (∀ x, i ≠ .addI x) → (∀ x, i ≠ .ldF x) → t.index = s.index) ∧
    ((∀ x, i ≠ .ldDtVx x) → t.delayTimer = s.delayTimer) ∧
    ((∀ x, i ≠ .ldStVx x) → t.soundTimer = s.soundTimer)

/-- Memory is written by Fx33 and Fx55 alone, stack slots by the two calls alone, and sp by the calls
and RET alone (20_memory R71, 10_state R38). -/
def Obligations.MemoryAndStackHaveTheirOnlyWriters : Prop :=
  ∀ (i : Instr) (s t : State), exec i s = .next t →
    ((∀ x, i ≠ .ldB x) → (∀ x, i ≠ .storeRegs x) →
      t.mem = s.mem ∧ ∀ a, t.byteAt a = s.byteAt a) ∧
    ((∀ nnn, i ≠ .call nnn) → (∀ nnn, i ≠ .callV0 nnn) → t.stack = s.stack) ∧
    ((∀ nnn, i ≠ .call nnn) → (∀ nnn, i ≠ .callV0 nnn) → i ≠ .ret → t.sp = s.sp)

/-- No instruction reaches the control state: the closed flag, the accumulators, the counts and the
parameters stay, and the framebuffer is written by 00E0 and Dxyn alone (10_state R42, 43_display
R258). -/
def Obligations.ControlStateIsNoInstructionsToWrite : Prop :=
  ∀ (i : Instr) (s t : State), exec i s = .next t →
    t.params = s.params ∧ t.closed = s.closed ∧ t.acc = s.acc ∧ t.tacc = s.tacc ∧
    t.tickCount = s.tickCount ∧ t.lastTickCount = s.lastTickCount ∧ t.timeDraws = s.timeDraws ∧
    (i ≠ .cls → (∀ x y n, i ≠ .drw x y n) → t.fb = s.fb)

/-! ### Memory and the stack unit -/

/-- `MemRead` and `MemWrite` (20_memory R72, R73): in range a read gives the byte and a write stores
it, so that it is read back and every other address reads as before; out of range a read gives 0, a
write stores nothing, each with its report, and nothing else changes. -/
def Obligations.MemoryReadsWhatWasWrittenWithinBounds : Prop :=
  ∀ (s : State) (a : Nat) (v : Byte), s.mem.wf = true →
    (memRead a s).1 = s.byteAt a ∧
    (a < s.params.memSize →
      (memRead a s).2 = s ∧ (memWrite a v s).1 = true ∧
      (memWrite a v s).2 = { s with mem := (memWrite a v s).2.mem } ∧
      ∀ b, (memWrite a v s).2.byteAt b = if b = a then v else s.byteAt b) ∧
    (s.params.memSize ≤ a →
      s.byteAt a = 0 ∧ (memRead a s).2 = s.report (.outOfBoundsRead a) ∧
      memWrite a v s = (false, s.report (.outOfBoundsWrite a v)))

/-- `Push` and `Pop` (10_state R58, R59): a push with a free slot writes that slot and counts it, and
a pop gives it back; a pop with a slot occupied reads the topmost one and leaves the slots; a push on
16 slots is StackOverflow, a pop of none is StackUnderflow. -/
def Obligations.PopGivesBackWhatWasPushed : Prop :=
  ∀ (s : State) (v : Word),
    (s.sp.toNat < 16 → ∃ t, push v s = some t ∧
      t = { s with stack := t.stack, sp := s.sp + 1 } ∧
      (∀ j : Fin 16, t.stack[j.val] = if j.val = s.sp.toNat then v else s.stack[j.val]) ∧
      pop t = .ok v { t with sp := s.sp }) ∧
    (∀ j : Fin 16, j.val + 1 = s.sp.toNat →
      pop s = .ok s.stack[j.val] { s with sp := s.sp - 1 }) ∧
    (16 ≤ s.sp.toNat → push v s = none) ∧
    (s.sp = 0 → pop s = .underflow)

/-! ### Control flow (41_control_flow) -/

/-- 00EE RET (41_control_flow R171). -/
def Obligations.RetResumesAtThePoppedAddress : Prop :=
  DecodesRow 0xFFFF 0x00EE (fun _ => .ret) ∧
  (∀ s : State, 0 < s.sp.toNat → s.sp.toNat ≤ 16 → ∃ t, exec .ret s = .next t ∧
    t = { s with pc := s.stackTop, sp := s.sp - 1 } ∧
    ∀ (j : Fin 16), j.val + 1 = s.sp.toNat → t.pc = s.stack[j.val]) ∧
  ∀ s : State, s.sp = 0 → ∃ t, exec .ret s = .next t ∧ FaultsWith s t .stackUnderflow 0x00EE

/-- RET with sp above 16, which 10_state R37 says is never reached, stops under the model's own name
(log entry 6): the slot that R59 reads does not exist. -/
def Obligations.RetBeyondTheStackStops : Prop :=
  ∀ s : State, 16 < s.sp.toNat → exec .ret s = .fault .noStackSlot

/-- 1nnn JP nnn (41_control_flow R172): pc is left two below the target modulo 2^16, for every nnn. -/
def Obligations.JumpLeavesTheBiasedTarget : Prop :=
  DecodesRow 0xF000 0x1000 (fun w => .jp (fieldNnn w)) ∧
  ∀ (s : State) (nnn : Addr), ∃ t, exec (.jp nnn) s = .next t ∧
    t = { s with pc := t.pc } ∧ t.pc.toNat = (nnn.toNat + 65534) % 65536

/-- 2nnn CALL nnn and Bnnn CALL V0, nnn (41_control_flow R173, R178): with a free slot the call's own
address is pushed and pc left two below the target, which for Bnnn is V0 + nnn, not reduced to 12
bits; with none, StackOverflow and nothing else. -/
def Obligations.CallsPushTheirOwnAddress : Prop :=
  DecodesRow 0xF000 0x2000 (fun w => .call (fieldNnn w)) ∧
  DecodesRow 0xF000 0xB000 (fun w => .callV0 (fieldNnn w)) ∧
  ∀ (s : State) (nnn : Addr),
    (s.sp.toNat < 16 →
      ∃ t u, exec (.call nnn) s = .next t ∧ exec (.callV0 nnn) s = .next u ∧
        t = { s with stack := t.stack, sp := s.sp + 1, pc := t.pc } ∧
        u = { t with pc := u.pc } ∧
        (∀ j : Fin 16, t.stack[j.val] = if j.val = s.sp.toNat then s.pc else s.stack[j.val]) ∧
        t.pc.toNat = (nnn.toNat + 65534) % 65536 ∧
        u.pc.toNat = ((s.reg 0).toNat + nnn.toNat + 65534) % 65536) ∧
    (16 ≤ s.sp.toNat →
      ∃ t u, exec (.call nnn) s = .next t ∧ exec (.callV0 nnn) s = .next u ∧
        FaultsWith s t .stackOverflow (encode (.call nnn)) ∧
        FaultsWith s u .stackOverflow (encode (.callV0 nnn)))

/-- A call followed, with the stack as the call left it, by RET resumes at the call's address (the
cycle then adds 2), with sp and the slots below it as before the call (41_control_flow R171, R173). -/
def Obligations.ReturnComesBackToTheCallSite : Prop :=
  ∀ (s t u : State) (i : Instr) (nnn : Addr), (i = .call nnn ∨ i = .callV0 nnn) →
    s.sp.toNat < 16 → exec i s = .next t → u.stack = t.stack → u.sp = t.sp → u.latch = none →
    ∃ v, exec .ret u = .next v ∧ v.pc = s.pc ∧ (advance v).pc = s.pc + 2 ∧ v.sp = s.sp ∧
      ∀ j : Fin 16, j.val < s.sp.toNat → v.stack[j.val] = s.stack[j.val]

/-- 3xkk, 4xkk, 5xyn and 9xyn (41_control_flow R174 to R177): a skip whose condition holds adds 2 to pc
modulo 2^16, one whose condition fails writes nothing; n is ignored; nothing else changes. -/
def Obligations.SkipsAddOneInstructionWidth : Prop :=
  DecodesRow 0xF000 0x3000 (fun w => .seImm (fieldX w) (fieldKk w)) ∧
  DecodesRow 0xF000 0x4000 (fun w => .sneImm (fieldX w) (fieldKk w)) ∧
  DecodesRow 0xF000 0x5000 (fun w => .seReg (fieldX w) (fieldY w) (fieldN w)) ∧
  DecodesRow 0xF000 0x9000 (fun w => .sneReg (fieldX w) (fieldY w) (fieldN w)) ∧
  ∀ (s : State) (x y : Reg) (n : Nibble) (kk : Byte),
    (s.reg x = kk → exec (.seImm x kk) s = .next { s with pc := s.pc + 2 } ∧
      exec (.sneImm x kk) s = .next s) ∧
    (s.reg x ≠ kk → exec (.seImm x kk) s = .next s ∧
      exec (.sneImm x kk) s = .next { s with pc := s.pc + 2 }) ∧
    (s.reg x = s.reg y → exec (.seReg x y n) s = .next { s with pc := s.pc + 2 } ∧
      exec (.sneReg x y n) s = .next s) ∧
    (s.reg x ≠ s.reg y → exec (.seReg x y n) s = .next s ∧
      exec (.sneReg x y n) s = .next { s with pc := s.pc + 2 })

/-! ### Loads, the register ALU, the index load and the random byte (42_load_alu) -/

/-- 6xkk LD Vx, kk and 7xkk ADD Vx, kk (42_load_alu R201, R202): V[x] is kk, or the sum modulo 2^8;
no flag is written. -/
def Obligations.ImmediateLoadAndAdd : Prop :=
  DecodesRow 0xF000 0x6000 (fun w => .ldImm (fieldX w) (fieldKk w)) ∧
  DecodesRow 0xF000 0x7000 (fun w => .addImm (fieldX w) (fieldKk w)) ∧
  ∀ (s : State) (x : Reg) (kk : Byte),
    CompletesInRegs (.ldImm x kk) s (fun r => if r = x then kk else s.reg r) ∧
    CompletesInRegs (.addImm x kk) s (fun r =>
      if r = x then BitVec.ofNat 8 ((s.reg x).toNat + kk.toNat) else s.reg r)

/-- 8xy0 LD, 8xy1 OR, 8xy2 AND, 8xy3 XOR (42_load_alu R203 to R206): no flag is written. -/
def Obligations.CopyAndLogicWriteOneRegister : Prop :=
  DecodesRow 0xF00F 0x8000 (fun w => .ldReg (fieldX w) (fieldY w)) ∧
  DecodesRow 0xF00F 0x8001 (fun w => .orReg (fieldX w) (fieldY w)) ∧
  DecodesRow 0xF00F 0x8002 (fun w => .andReg (fieldX w) (fieldY w)) ∧
  DecodesRow 0xF00F 0x8003 (fun w => .xorReg (fieldX w) (fieldY w)) ∧
  ∀ (s : State) (x y : Reg),
    CompletesInRegs (.ldReg x y) s (fun r => if r = x then s.reg y else s.reg r) ∧
    CompletesInRegs (.orReg x y) s (fun r => if r = x then s.reg x ||| s.reg y else s.reg r) ∧
    CompletesInRegs (.andReg x y) s (fun r => if r = x then s.reg x &&& s.reg y else s.reg r) ∧
    CompletesInRegs (.xorReg x y) s (fun r => if r = x then s.reg x ^^^ s.reg y else s.reg r)

/-- 8xy4 ADD Vx, Vy (42_load_alu R207): the sum modulo 2^8 in V[x], then VF = 1 iff the sum exceeds
255; with x = FLAG the flag survives. -/
def Obligations.AddSetsTheCarry : Prop :=
  DecodesRow 0xF00F 0x8004 (fun w => .addReg (fieldX w) (fieldY w)) ∧
  ∀ (s : State) (x y : Reg), CompletesInRegs (.addReg x y) s (fun r =>
    if r = s.params.flag then (if 255 < (s.reg x).toNat + (s.reg y).toNat then 1 else 0)
    else if r = x then BitVec.ofNat 8 ((s.reg x).toNat + (s.reg y).toNat) else s.reg r)

/-- 8xy5 SUB Vx, Vy and 8xy7 SUBN Vx, Vy (42_load_alu R208, R210): the difference modulo 2^8 in V[x],
then VF = 1 iff the minuend is strictly greater; with x = FLAG the flag survives. -/
def Obligations.SubtractionsSetTheNoBorrowFlag : Prop :=
  DecodesRow 0xF00F 0x8005 (fun w => .subReg (fieldX w) (fieldY w)) ∧
  DecodesRow 0xF00F 0x8007 (fun w => .subnReg (fieldX w) (fieldY w)) ∧
  ∀ (s : State) (x y : Reg),
    CompletesInRegs (.subReg x y) s (fun r =>
      if r = s.params.flag then (if (s.reg y).toNat < (s.reg x).toNat then 1 else 0)
      else if r = x then BitVec.ofNat 8 (256 + (s.reg x).toNat - (s.reg y).toNat) else s.reg r) ∧
    CompletesInRegs (.subnReg x y) s (fun r =>
      if r = s.params.flag then (if (s.reg x).toNat < (s.reg y).toNat then 1 else 0)
      else if r = x then BitVec.ofNat 8 (256 + (s.reg y).toNat - (s.reg x).toNat) else s.reg r)

/-- 8xy6 SHR Vx and 8xyE SHL Vx (42_load_alu R209, R211): VF is the bit shifted out and V[x] the
shifted value, y ignored; with x = FLAG the flag just written is what is shifted. -/
def Obligations.ShiftsCaptureTheBitShiftedOut : Prop :=
  DecodesRow 0xF00F 0x8006 (fun w => .shr (fieldX w) (fieldY w)) ∧
  DecodesRow 0xF00F 0x800E (fun w => .shl (fieldX w) (fieldY w)) ∧
  ∀ (s : State) (x y : Reg),
    CompletesInRegs (.shr x y) s (fun r =>
      if r = x then (if x = s.params.flag then 0 else BitVec.ofNat 8 ((s.reg x).toNat / 2))
      else if r = s.params.flag then BitVec.ofNat 8 ((s.reg x).toNat % 2) else s.reg r) ∧
    CompletesInRegs (.shl x y) s (fun r =>
      if r = x then
        (if x = s.params.flag then BitVec.ofNat 8 (2 * ((s.reg x).toNat / 128))
          else BitVec.ofNat 8 (2 * (s.reg x).toNat))
      else if r = s.params.flag then BitVec.ofNat 8 ((s.reg x).toNat / 128) else s.reg r)

/-- Annn LD I, nnn (42_load_alu R212). -/
def Obligations.IndexLoadZeroExtends : Prop :=
  DecodesRow 0xF000 0xA000 (fun w => .ldI (fieldNnn w)) ∧
  ∀ (s : State) (nnn : Addr), ∃ t, exec (.ldI nnn) s = .next t ∧
    t = { s with index := t.index } ∧ t.index.toNat = nnn.toNat

/-- Cxkk RND Vx, kk (42_load_alu R213, R216): V[x] is the next free byte AND kk, which is 0 for kk = 0;
the byte is a free value (log entry 4), and the statement holds for every value of it. -/
def Obligations.RandomByteIsMasked : Prop :=
  DecodesRow 0xF000 0xC000 (fun w => .rnd (fieldX w) (fieldKk w)) ∧
  ∀ (s : State) (x : Reg) (kk : Byte), ∃ t, exec (.rnd x kk) s = .next t ∧
    t = { s with regs := t.regs, inputDraws := s.inputDraws + 1 } ∧
    (∀ r, t.reg r = if r = x then Config.randomByte s.inputDraws &&& kk else s.reg r) ∧
    (kk = 0 → t.reg x = 0)

/-! ### The framebuffer (43_display) -/

/-- 00E0 CLS (43_display R260, R254): every pixel inactive, marked changed, the mode as it was. -/
def Obligations.ClearMakesEveryPixelInactive : Prop :=
  DecodesRow 0xFFFF 0x00E0 (fun _ => .cls) ∧
  ∀ s : State, ∃ t, exec .cls s = .next t ∧
    t = { s with fb := { s.fb with pix := t.fb.pix, changed := true } } ∧
    t.fb.pix.length = s.fb.pix.length ∧ ∀ x y, t.fb.pixel x y = false

/-- Dxyn DRW always completes; it changes pixels, the changed flag, VF (to 0 or 1) and the reports of
its reads alone: memory, I, the mode, every register but VF and all else stay, every address reads as
before, and with n = 0 the framebuffer stays too and VF = 0 (43_display R261). -/
def Obligations.DrawChangesPixelsAndTheFlagAlone : Prop :=
  DecodesRow 0xF000 0xD000 (fun w => .drw (fieldX w) (fieldY w) (fieldN w)) ∧
  ∀ (s : State) (x y : Reg) (n : Nibble), ∃ t, exec (.drw x y n) s = .next t ∧
    t = { s with
      regs := t.regs
      fb := { s.fb with pix := t.fb.pix, changed := t.fb.changed }
      reports := s.reports ++ spriteReports s s.index.toNat n.toNat } ∧
    (∀ r, r ≠ s.params.flag → t.reg r = s.reg r) ∧
    (t.reg s.params.flag = 0 ∨ t.reg s.params.flag = 1) ∧
    t.fb.pix.length = s.fb.pix.length ∧ (∀ a, t.byteAt a = s.byteAt a) ∧
    (n = 0 → t.fb = s.fb ∧ t.reg s.params.flag = 0)

/-- What a draw does to each pixel: it is inverted once for every sprite bit that is 1 and lands on it,
each coordinate wrapped by the mode, bit 7 leftmost (43_display R261, R262). -/
def Obligations.DrawInvertsEachPixelOncePerHit : Prop :=
  ∀ (s t : State) (x y : Reg) (n : Nibble) (px py : Nat), s.fb.wf = true →
    px < s.fb.width → py < s.fb.height → exec (.drw x y n) s = .next t →
    t.fb.pixel px py = (s.fb.pixel px py ^^
      decide (spriteHits s (s.reg x).toNat (s.reg y).toNat s.index.toNat n.toNat px py % 2 = 1))

/-- VF after a draw is 1 exactly when some pixel went from active to inactive on the way: an active
pixel hit at least once, or an inactive one hit at least twice (43_display R261). -/
def Obligations.DrawFlagsEveryCollision : Prop :=
  ∀ (s t : State) (x y : Reg) (n : Nibble), s.fb.wf = true → exec (.drw x y n) s = .next t →
    (t.reg s.params.flag = 1 ↔ ∃ px py, px < s.fb.width ∧ py < s.fb.height ∧
      (if s.fb.pixel px py then 1 else 2) ≤
        spriteHits s (s.reg x).toNat (s.reg y).toNat s.index.toNat n.toNat px py)

/-- A draw marks the framebuffer changed iff at least one sprite bit read is 1, and clears the flag
never; with every bit 0 it leaves the framebuffer and writes VF = 0 (43_display R263). -/
def Obligations.DrawMarksChangedIffABitIsOne : Prop :=
  ∀ (s t : State) (x y : Reg) (n : Nibble), exec (.drw x y n) s = .next t →
    (t.fb.changed = true ↔ s.fb.changed = true ∨ ∃ r c, r < n.toNat ∧ c < 8 ∧
      spriteBit (s.byteAt (s.index.toNat + r)) c = true) ∧
    ((∀ r c, r < n.toNat → c < 8 → spriteBit (s.byteAt (s.index.toNat + r)) c = false) →
      t.fb = s.fb ∧ t.reg s.params.flag = 0)

/-! ### Keys, timers, index arithmetic, BCD and block transfers (44_input_timer_misc) -/

/-- Ex9E SKP and ExA1 SKNP (44_input_timer_misc R291, R292): the next free answer to the query of key
V[x] decides the skip. The answer is a free value (log entry 4); the statement holds for both. -/
def Obligations.KeySkipsFollowTheAnswer : Prop :=
  DecodesRow 0xF0FF 0xE09E (fun w => .skp (fieldX w)) ∧
  DecodesRow 0xF0FF 0xE0A1 (fun w => .sknp (fieldX w)) ∧
  ∀ (s : State) (x : Reg),
    exec (.skp x) s = .next { s with
      inputDraws := s.inputDraws + 1
      pc := if Config.keyPressed s.inputDraws (s.reg x) = true then s.pc + 2 else s.pc } ∧
    exec (.sknp x) s = .next { s with
      inputDraws := s.inputDraws + 1
      pc := if Config.keyPressed s.inputDraws (s.reg x) = true then s.pc else s.pc + 2 }

/-- Fx07, Fx15 and Fx18 (44_input_timer_misc R293, R295, R296). -/
def Obligations.TimerMovesCopyOneByte : Prop :=
  DecodesRow 0xF0FF 0xF007 (fun w => .ldVxDt (fieldX w)) ∧
  DecodesRow 0xF0FF 0xF015 (fun w => .ldDtVx (fieldX w)) ∧
  DecodesRow 0xF0FF 0xF018 (fun w => .ldStVx (fieldX w)) ∧
  ∀ (s : State) (x : Reg),
    CompletesInRegs (.ldVxDt x) s (fun r => if r = x then s.delayTimer else s.reg r) ∧
    exec (.ldDtVx x) s = .next { s with delayTimer := s.reg x } ∧
    exec (.ldStVx x) s = .next { s with soundTimer := s.reg x }

/-- Fx0A LD Vx, K (44_input_timer_misc R294): with no key pc goes back by 2 and no register is written,
so that the instruction runs again; with key k, one of the machine's NKEYS keys (16 by default, 0x0 to
0xF), V[x] = k. The poll's answer is a free value (log entries 4 and 14); the statement holds for every
one. -/
def Obligations.KeyWaitPollsOncePerCycle : Prop :=
  DecodesRow 0xF0FF 0xF00A (fun w => .ldVxK (fieldX w)) ∧
  ∀ (s : State) (x : Reg), ∃ t, exec (.ldVxK x) s = .next t ∧
    match s.keyWaitPoll with
    | none => t = { s with inputDraws := s.inputDraws + 1, pc := t.pc } ∧ t.pc + 2 = s.pc
    | some k => t = { s with inputDraws := s.inputDraws + 1, regs := t.regs } ∧
        k.toNat < s.params.nkeys ∧ ∀ r, t.reg r = if r = x then k else s.reg r

/-- Fx1E ADD I, Vx and Fx29 LD F, Vx (44_input_timer_misc R297, R298): I modulo 2^16, no flag written,
only the low nibble of V[x] selecting the glyph. -/
def Obligations.IndexArithmeticWraps : Prop :=
  DecodesRow 0xF0FF 0xF01E (fun w => .addI (fieldX w)) ∧
  DecodesRow 0xF0FF 0xF029 (fun w => .ldF (fieldX w)) ∧
  ∀ (s : State) (x : Reg),
    (∃ t, exec (.addI x) s = .next t ∧ t = { s with index := t.index } ∧
      t.index.toNat = (s.index.toNat + (s.reg x).toNat) % 65536) ∧
    ∃ t, exec (.ldF x) s = .next t ∧ t = { s with index := t.index } ∧
      t.index.toNat =
        (s.params.fontBase + s.params.fontStride * ((s.reg x).toNat % 16)) % 65536

/-- Fx33 LD B, Vx (44_input_timer_misc R299): the decimal digits of V[x] at I, I + 1 and I + 2, each if
in range and reported if not; every other address reads as before; I and all else stay. Memory is
taken in its canonical form. -/
def Obligations.BcdStoresThreeDigits : Prop :=
  DecodesRow 0xF0FF 0xF033 (fun w => .ldB (fieldX w)) ∧
  ∀ (s : State) (x : Reg), s.mem.wf = true → ∃ t, exec (.ldB x) s = .next t ∧
    t = { s with
      mem := t.mem
      reports := s.reports ++
        writeReports s s.index.toNat (BitVec.ofNat 8 ((s.reg x).toNat / 100)) ++
        writeReports s (s.index.toNat + 1) (BitVec.ofNat 8 ((s.reg x).toNat / 10 % 10)) ++
        writeReports s (s.index.toNat + 2) (BitVec.ofNat 8 ((s.reg x).toNat % 10)) } ∧
    ∀ a, (t.byteAt a).toNat =
      if s.params.memSize ≤ a then 0
      else if a = s.index.toNat then (s.reg x).toNat / 100
      else if a = s.index.toNat + 1 then (s.reg x).toNat / 10 % 10
      else if a = s.index.toNat + 2 then (s.reg x).toNat % 10
      else (s.byteAt a).toNat

/-- Fx55 LD [I], Vx (44_input_timer_misc R300): V0 to Vx at I to I + x, each byte if in range and
reported if not, in ascending order; every other address reads as before; I and all else stay. Memory
is taken in its canonical form. -/
def Obligations.StoreBlockWritesV0ToVx : Prop :=
  DecodesRow 0xF0FF 0xF055 (fun w => .storeRegs (fieldX w)) ∧
  ∀ (s : State) (x : Reg), s.mem.wf = true → ∃ t, exec (.storeRegs x) s = .next t ∧
    t = { s with mem := t.mem, reports := s.reports ++ storeReports s (x.toNat + 1) } ∧
    (∀ r : Reg, r.toNat ≤ x.toNat → s.index.toNat + r.toNat < s.params.memSize →
      t.byteAt (s.index.toNat + r.toNat) = s.reg r) ∧
    ∀ a, (a < s.index.toNat ∨ s.index.toNat + x.toNat < a ∨ s.params.memSize ≤ a) →
      t.byteAt a = s.byteAt a

/-- Fx65 LD Vx, [I] (44_input_timer_misc R301): V0 to Vx from I to I + x, an out-of-range byte 0 with a
report, in ascending order; the registers above x, I, memory and all else stay. -/
def Obligations.LoadBlockReadsV0ToVx : Prop :=
  DecodesRow 0xF0FF 0xF065 (fun w => .loadRegs (fieldX w)) ∧
  ∀ (s : State) (x : Reg), ∃ t, exec (.loadRegs x) s = .next t ∧
    t = { s with regs := t.regs, reports := s.reports ++ loadReports s (x.toNat + 1) } ∧
    (∀ r : Reg, t.reg r =
      if r.toNat ≤ x.toNat then s.byteAt (s.index.toNat + r.toNat) else s.reg r) ∧
    ∀ a, t.byteAt a = s.byteAt a

/-! ### The host (60_exceptions, 43_display) -/

/-- The host's operations on one pixel (43_display R251 to R253, R257): in range, `setPixel` and
`invertPixel` change that pixel alone and mark the grid as the rules say; out of range each reports and
changes no pixel and no flag, and `getPixel` answers inactive. -/
def Obligations.HostPixelOperationsAreBoundsChecked : Prop :=
  ∀ (s : State) (x y : Int) (a : Bool), s.fb.wf = true →
    (pixelInRange x y s.fb = true →
      ∃ t u, hostOp (.setPixel x y a) s = some (.next t) ∧
        hostOp (.invertPixel x y) s = some (.next u) ∧
        hostOp (.getPixel x y) s = some (.next s) ∧
        t = { s with fb := { s.fb with pix := t.fb.pix, changed := t.fb.changed } } ∧
        u = { s with fb := { s.fb with pix := u.fb.pix, changed := true } } ∧
        getPixel x y s = s.fb.pixel x.toNat y.toNat ∧
        (∀ px py, px < s.fb.width → py < s.fb.height →
          t.fb.pixel px py = (if px = x.toNat ∧ py = y.toNat then a else s.fb.pixel px py) ∧
          u.fb.pixel px py = (s.fb.pixel px py ^^ decide (px = x.toNat ∧ py = y.toNat))) ∧
        (t.fb.changed = true ↔ s.fb.changed = true ∨ getPixel x y s ≠ a)) ∧
    (pixelInRange x y s.fb = false →
      getPixel x y s = false ∧
      ∀ o, (o = .setPixel x y a ∨ o = .getPixel x y ∨ o = .invertPixel x y) →
        hostOp o s = some (.next (s.report (.outOfBoundsPixel x y))))

/-- The host's operations on the whole grid (43_display R250, R254, R255, R259): inverting twice
restores every pixel, a new mode is blank and marked changed and needs a column and a row, clearing
makes every pixel inactive, and consuming returns a copy of the mode and the pixels and clears the
changed flag alone. That a new mode with no column or row is no operation is the model's reading of the
precondition (log entry 8, DEDUCED). -/
def Obligations.HostGridOperations : Prop :=
  ∀ (s : State) (w h : Nat),
    (∃ t u, hostOp .invertAll s = some (.next t) ∧ hostOp .invertAll t = some (.next u) ∧
      u = { s with fb := { s.fb with changed := true } } ∧ t.fb.changed = true ∧
      ∀ k, k < s.fb.pix.length → t.fb.pix.getD k false = !s.fb.pix.getD k false) ∧
    (1 ≤ w → 1 ≤ h → ∃ t, hostOp (.setMode w h) s = some (.next t) ∧
      t = { s with fb := t.fb } ∧ t.fb.width = w ∧ t.fb.height = h ∧ t.fb.wf = true ∧
      t.fb.changed = true ∧ ∀ x y, t.fb.pixel x y = false) ∧
    (w = 0 ∨ h = 0 → hostOp (.setMode w h) s = none) ∧
    (∃ t, hostOp .clear s = some (.next t) ∧
      t = { s with fb := { s.fb with pix := t.fb.pix, changed := true } } ∧
      t.fb.pix.length = s.fb.pix.length ∧ ∀ x y, t.fb.pixel x y = false) ∧
    (consume s).1 = { width := s.fb.width, height := s.fb.height, pix := s.fb.pix } ∧
    hostOp .consume s = some (.next (consume s).2) ∧
    (consume s).2 = { s with fb := { s.fb with changed := false } }

/-- The loader's writes (60_exceptions R360, R368; 20_memory R89, R73): each byte of the image at its
address from LOAD_ADDR on, if in range, and every other address as before; each byte out of range is
reported and dropped, in ascending order; nothing but memory and the sink changes; and the caller gets
the success of each byte. R89 has the loader write before the first tick; that it does the same in every
other state is the model's choice (log entry 17). Memory is taken in its canonical form. -/
def Obligations.LoaderPlacesTheImageAtLoadAddr : Prop :=
  ∀ (s : State) (image : List Byte), s.mem.wf = true →
    ∃ t, hostOp (.load image) s = some (.next t) ∧
      t = { s with
        mem := t.mem, reports := s.reports ++ imageReports s s.params.loadAddr image } ∧
      (loadSuccess s.params.loadAddr image s).length = image.length ∧
      (∀ k, k < image.length → (loadSuccess s.params.loadAddr image s).getD k false =
        decide (s.params.loadAddr + k < s.params.memSize)) ∧
      ∀ a, t.byteAt a =
        if a < s.params.memSize ∧ s.params.loadAddr ≤ a ∧ a < s.params.loadAddr + image.length
        then image.getD (a - s.params.loadAddr) 0 else s.byteAt a

/-- The close signal (60_exceptions R362, 40_cycle R150; 10_state R46): the machine is inactive from
then on, in every run in which the host does not act (log entry 7: a reset makes it active again). That
such a run goes on is the model's reading (log entry 10, DEDUCED). -/
def Obligations.ClosedMachineStaysInactive : Prop :=
  ∀ (s : State) (n : Nat), ∃ t u, hostOp .close s = some (.next t) ∧
    t = { s with closed := true } ∧ t.active = false ∧ core.run n t = .next u ∧
    u.closed = true ∧ u.active = false ∧ u.pc = s.pc ∧ u.regs = s.regs ∧ u.mem = s.mem

/-! ### The steps that run no cycle (40_cycle) -/

/-- The steps of an active machine in which no cycle is due. When a timer decrement is due, the step is
one `TimerDecrement` and takes one period from the timer domain's accumulator (40_cycle R147 step 4, R148,
R152); the tick's count is written when that was its last decrement. When none is due, the step opens a
tick of some dt, which is over at once if that makes nothing due (40_cycle R147). Neither step changes
anything else. That the opening is a step of its own, dt a free value, and the tick's last line part of
its last step, is the model's choice (log entry 5, DESIGN CHOICE). -/
def Obligations.StepsWithoutACycleDecrementOnceOrOpenATick : Prop :=
  ∀ s : State, s.active = true → s.cycleDue = false →
    (s.decrementDue = true → ∃ t, step s = .next t ∧
      t = { timerDecrement s with
        tacc := s.tacc - s.params.timerPeriod
        tickCount := t.tickCount, lastTickCount := t.lastTickCount } ∧
      if s.tacc - s.params.timerPeriod < s.params.timerPeriod then
        t.tickCount = 0 ∧ t.lastTickCount = s.tickCount
      else t.tickCount = s.tickCount ∧ t.lastTickCount = s.lastTickCount) ∧
    (s.decrementDue = false → ∃ dt t, step s = .next t ∧
      t = { s with
        acc := s.acc + dt, tacc := s.tacc + dt
        tickCount := 0, lastTickCount := t.lastTickCount, timeDraws := s.timeDraws + 1 } ∧
      if s.acc + dt < s.params.instrPeriod ∧ s.tacc + dt < s.params.timerPeriod then
        t.lastTickCount = 0 ∧ tick dt s = .next { t with timeDraws := s.timeDraws }
      else t.lastTickCount = s.lastTickCount)
end

