-- ==== Sys2Proof/Laws/Decode.lean ====
section
/-! SUPPORT. The fields of packed and masked words (spec/30_encoding.md R101). -/

namespace Sys2Proof

/-! ### The fields of a packed word -/

@[simp] theorem fieldF_packNnn (f : Nibble) (nnn : Addr) : fieldF (packNnn f nnn) = f := by
  ext i hi
  simp only [fieldF, packNnn, BitVec.getElem_extractLsb', BitVec.getLsbD_append]
  simp [show ¬ 12 + i < 12 by omega, BitVec.getLsbD_eq_getElem hi]

@[simp] theorem fieldNnn_packNnn (f : Nibble) (nnn : Addr) : fieldNnn (packNnn f nnn) = nnn := by
  ext i hi
  simp only [fieldNnn, packNnn, BitVec.getElem_extractLsb', BitVec.getLsbD_append]
  simp [hi]

@[simp] theorem fieldF_packXKk (f : Nibble) (x : Reg) (kk : Byte) : fieldF (packXKk f x kk) = f :=
  fieldF_packNnn f _

@[simp] theorem fieldX_packXKk (f : Nibble) (x : Reg) (kk : Byte) : fieldX (packXKk f x kk) = x := by
  ext i hi
  simp only [fieldX, packXKk, packNnn, BitVec.getElem_extractLsb', BitVec.getLsbD_append]
  simp [show 8 + i < 12 by omega, show ¬ 8 + i < 8 by omega, BitVec.getLsbD_eq_getElem hi]

@[simp] theorem fieldKk_packXKk (f : Nibble) (x : Reg) (kk : Byte) :
    fieldKk (packXKk f x kk) = kk := by
  ext i hi
  simp only [fieldKk, packXKk, packNnn, BitVec.getElem_extractLsb', BitVec.getLsbD_append]
  simp [hi, show i < 12 by omega]

@[simp] theorem fieldF_packXYN (f : Nibble) (x y : Reg) (n : Nibble) :
    fieldF (packXYN f x y n) = f := fieldF_packNnn f _

@[simp] theorem fieldX_packXYN (f : Nibble) (x y : Reg) (n : Nibble) :
    fieldX (packXYN f x y n) = x := fieldX_packXKk f x _

@[simp] theorem fieldY_packXYN (f : Nibble) (x y : Reg) (n : Nibble) :
    fieldY (packXYN f x y n) = y := by
  ext i hi
  simp only [fieldY, packXYN, packXKk, packNnn, BitVec.getElem_extractLsb', BitVec.getLsbD_append]
  simp [show 4 + i < 12 by omega, show 4 + i < 8 by omega, show ¬ 4 + i < 4 by omega,
    BitVec.getLsbD_eq_getElem hi]

@[simp] theorem fieldN_packXYN (f : Nibble) (x y : Reg) (n : Nibble) :
    fieldN (packXYN f x y n) = n := by
  ext i hi
  simp only [fieldN, packXYN, packXKk, packNnn, BitVec.getElem_extractLsb', BitVec.getLsbD_append]
  simp [hi, show i < 12 by omega, show i < 8 by omega]

/-! ### A word is its fields -/

theorem packNnn_fields (w : Word) : packNnn (fieldF w) (fieldNnn w) = w := by
  apply BitVec.eq_of_getLsbD_eq
  intro i hi
  simp only [packNnn, fieldF, fieldNnn, BitVec.getLsbD_append, BitVec.getLsbD_extractLsb']
  by_cases h : i < 12
  · simp [h]
  · simp [h, show i - 12 < 4 by omega, show 12 + (i - 12) = i by omega]

theorem nnn_fields (w : Word) : (fieldX w ++ fieldKk w : Addr) = fieldNnn w := by
  ext i hi
  simp only [BitVec.getElem_append, fieldX, fieldKk, fieldNnn]
  split
  · simp [BitVec.getElem_extractLsb']
  · simp [BitVec.getElem_extractLsb', show 8 + (i - 8) = i by omega]

theorem kk_fields (w : Word) : (fieldY w ++ fieldN w : Byte) = fieldKk w := by
  ext i hi
  simp only [BitVec.getElem_append, fieldY, fieldN, fieldKk]
  split
  · simp [BitVec.getElem_extractLsb']
  · simp [BitVec.getElem_extractLsb', show 4 + (i - 4) = i by omega]

theorem packXKk_fields (w : Word) : packXKk (fieldF w) (fieldX w) (fieldKk w) = w := by
  rw [packXKk, nnn_fields, packNnn_fields]

theorem packXYN_fields (w : Word) :
    packXYN (fieldF w) (fieldX w) (fieldY w) (fieldN w) = w := by
  rw [packXYN, kk_fields, packXKk_fields]

/-! ### The fields of a masked word -/

/-- A field of a bitwise AND is the AND of the fields. -/
theorem fieldF_and (v w : Word) : fieldF (v &&& w) = fieldF v &&& fieldF w := by
  ext i hi; simp [fieldF, BitVec.getElem_extractLsb']

theorem fieldX_and (v w : Word) : fieldX (v &&& w) = fieldX v &&& fieldX w := by
  ext i hi; simp [fieldX, BitVec.getElem_extractLsb']

theorem fieldY_and (v w : Word) : fieldY (v &&& w) = fieldY v &&& fieldY w := by
  ext i hi; simp [fieldY, BitVec.getElem_extractLsb']

theorem fieldN_and (v w : Word) : fieldN (v &&& w) = fieldN v &&& fieldN w := by
  ext i hi; simp [fieldN, BitVec.getElem_extractLsb']

theorem fieldKk_and (v w : Word) : fieldKk (v &&& w) = fieldKk v &&& fieldKk w := by
  ext i hi; simp [fieldKk, BitVec.getElem_extractLsb']

theorem fieldNnn_and (v w : Word) : fieldNnn (v &&& w) = fieldNnn v &&& fieldNnn w := by
  ext i hi; simp [fieldNnn, BitVec.getElem_extractLsb']

/-- The bytes of a word, high byte first, are the word again (20_memory R76). -/
theorem wordOfBytes_bytes (w : Word) : wordOfBytes (highByte w) (lowByte w) = w := by
  apply BitVec.eq_of_getLsbD_eq
  intro i hi
  simp only [wordOfBytes, highByte, lowByte, BitVec.getLsbD_append, BitVec.getLsbD_extractLsb']
  by_cases h : i < 8
  · simp [h]
  · simp [h, show i - 8 < 8 by omega, show 8 + (i - 8) = i by omega]

/-- The word of two bytes as a number (00_scope R14). -/
theorem wordOfBytes_toNat (hi lo : Byte) :
    (wordOfBytes hi lo).toNat = hi.toNat * 256 + lo.toNat := by
  have := lo.isLt
  rw [wordOfBytes, BitVec.toNat_append, ← Nat.shiftLeft_add_eq_or_of_lt this, Nat.shiftLeft_eq]

end Sys2Proof
end

