-- ==== Sys2Proof/Laws/State.lean ====
section
/-! SUPPORT. What each named update of the state does to each field: one lemma per field per update,
true by unfolding, so that no later proof unfolds a record update. -/

namespace Sys2Proof.Machine

/-! ### `setReg` -/

@[simp] theorem setReg_params (s : State) (i : Reg) (v : Byte) :
    (s.setReg i v).params = s.params := rfl

@[simp] theorem setReg_regs (s : State) (i : Reg) (v : Byte) :
    (s.setReg i v).regs = s.regs.set i.toNat v := rfl

@[simp] theorem setReg_index (s : State) (i : Reg) (v : Byte) :
    (s.setReg i v).index = s.index := rfl

@[simp] theorem setReg_pc (s : State) (i : Reg) (v : Byte) : (s.setReg i v).pc = s.pc := rfl

@[simp] theorem setReg_sp (s : State) (i : Reg) (v : Byte) : (s.setReg i v).sp = s.sp := rfl

@[simp] theorem setReg_stack (s : State) (i : Reg) (v : Byte) :
    (s.setReg i v).stack = s.stack := rfl

@[simp] theorem setReg_delayTimer (s : State) (i : Reg) (v : Byte) :
    (s.setReg i v).delayTimer = s.delayTimer := rfl

@[simp] theorem setReg_soundTimer (s : State) (i : Reg) (v : Byte) :
    (s.setReg i v).soundTimer = s.soundTimer := rfl

@[simp] theorem setReg_latch (s : State) (i : Reg) (v : Byte) :
    (s.setReg i v).latch = s.latch := rfl

@[simp] theorem setReg_closed (s : State) (i : Reg) (v : Byte) :
    (s.setReg i v).closed = s.closed := rfl

@[simp] theorem setReg_acc (s : State) (i : Reg) (v : Byte) : (s.setReg i v).acc = s.acc := rfl

@[simp] theorem setReg_tacc (s : State) (i : Reg) (v : Byte) : (s.setReg i v).tacc = s.tacc := rfl

@[simp] theorem setReg_tickCount (s : State) (i : Reg) (v : Byte) :
    (s.setReg i v).tickCount = s.tickCount := rfl

@[simp] theorem setReg_lastTickCount (s : State) (i : Reg) (v : Byte) :
    (s.setReg i v).lastTickCount = s.lastTickCount := rfl

@[simp] theorem setReg_fb (s : State) (i : Reg) (v : Byte) : (s.setReg i v).fb = s.fb := rfl

@[simp] theorem setReg_mem (s : State) (i : Reg) (v : Byte) : (s.setReg i v).mem = s.mem := rfl

@[simp] theorem setReg_reports (s : State) (i : Reg) (v : Byte) :
    (s.setReg i v).reports = s.reports := rfl

@[simp] theorem setReg_inputDraws (s : State) (i : Reg) (v : Byte) :
    (s.setReg i v).inputDraws = s.inputDraws := rfl

@[simp] theorem setReg_timeDraws (s : State) (i : Reg) (v : Byte) :
    (s.setReg i v).timeDraws = s.timeDraws := rfl

@[simp] theorem setReg_byteAt (s : State) (i : Reg) (v : Byte) (a : Nat) :
    (s.setReg i v).byteAt a = s.byteAt a := rfl

@[simp] theorem setReg_inMemory (s : State) (i : Reg) (v : Byte) (a : Nat) :
    (s.setReg i v).inMemory a = s.inMemory a := rfl

/-! ### `setFlag` -/

@[simp] theorem setFlag_params (s : State) (v : Byte) : (s.setFlag v).params = s.params := rfl

@[simp] theorem setFlag_regs (s : State) (v : Byte) :
    (s.setFlag v).regs = s.regs.set s.params.flag.toNat v := rfl

@[simp] theorem setFlag_index (s : State) (v : Byte) : (s.setFlag v).index = s.index := rfl

@[simp] theorem setFlag_pc (s : State) (v : Byte) : (s.setFlag v).pc = s.pc := rfl

@[simp] theorem setFlag_sp (s : State) (v : Byte) : (s.setFlag v).sp = s.sp := rfl

@[simp] theorem setFlag_stack (s : State) (v : Byte) : (s.setFlag v).stack = s.stack := rfl

@[simp] theorem setFlag_delayTimer (s : State) (v : Byte) :
    (s.setFlag v).delayTimer = s.delayTimer := rfl

@[simp] theorem setFlag_soundTimer (s : State) (v : Byte) :
    (s.setFlag v).soundTimer = s.soundTimer := rfl

@[simp] theorem setFlag_latch (s : State) (v : Byte) : (s.setFlag v).latch = s.latch := rfl

@[simp] theorem setFlag_closed (s : State) (v : Byte) : (s.setFlag v).closed = s.closed := rfl

@[simp] theorem setFlag_acc (s : State) (v : Byte) : (s.setFlag v).acc = s.acc := rfl

@[simp] theorem setFlag_tacc (s : State) (v : Byte) : (s.setFlag v).tacc = s.tacc := rfl

@[simp] theorem setFlag_tickCount (s : State) (v : Byte) :
    (s.setFlag v).tickCount = s.tickCount := rfl

@[simp] theorem setFlag_lastTickCount (s : State) (v : Byte) :
    (s.setFlag v).lastTickCount = s.lastTickCount := rfl

@[simp] theorem setFlag_fb (s : State) (v : Byte) : (s.setFlag v).fb = s.fb := rfl

@[simp] theorem setFlag_mem (s : State) (v : Byte) : (s.setFlag v).mem = s.mem := rfl

@[simp] theorem setFlag_reports (s : State) (v : Byte) : (s.setFlag v).reports = s.reports := rfl

@[simp] theorem setFlag_inputDraws (s : State) (v : Byte) :
    (s.setFlag v).inputDraws = s.inputDraws := rfl

@[simp] theorem setFlag_timeDraws (s : State) (v : Byte) :
    (s.setFlag v).timeDraws = s.timeDraws := rfl

@[simp] theorem setFlag_byteAt (s : State) (v : Byte) (a : Nat) :
    (s.setFlag v).byteAt a = s.byteAt a := rfl

@[simp] theorem setFlag_inMemory (s : State) (v : Byte) (a : Nat) :
    (s.setFlag v).inMemory a = s.inMemory a := rfl

/-! ### `setResultThenFlag` -/

@[simp] theorem setResultThenFlag_params (s : State) (x : Reg) (v f : Byte) :
    (s.setResultThenFlag x v f).params = s.params := rfl

@[simp] theorem setResultThenFlag_regs (s : State) (x : Reg) (v f : Byte) :
    (s.setResultThenFlag x v f).regs = (s.regs.set x.toNat v).set s.params.flag.toNat f := rfl

@[simp] theorem setResultThenFlag_index (s : State) (x : Reg) (v f : Byte) :
    (s.setResultThenFlag x v f).index = s.index := rfl

@[simp] theorem setResultThenFlag_pc (s : State) (x : Reg) (v f : Byte) :
    (s.setResultThenFlag x v f).pc = s.pc := rfl

@[simp] theorem setResultThenFlag_sp (s : State) (x : Reg) (v f : Byte) :
    (s.setResultThenFlag x v f).sp = s.sp := rfl

@[simp] theorem setResultThenFlag_stack (s : State) (x : Reg) (v f : Byte) :
    (s.setResultThenFlag x v f).stack = s.stack := rfl

@[simp] theorem setResultThenFlag_delayTimer (s : State) (x : Reg) (v f : Byte) :
    (s.setResultThenFlag x v f).delayTimer = s.delayTimer := rfl

@[simp] theorem setResultThenFlag_soundTimer (s : State) (x : Reg) (v f : Byte) :
    (s.setResultThenFlag x v f).soundTimer = s.soundTimer := rfl

@[simp] theorem setResultThenFlag_latch (s : State) (x : Reg) (v f : Byte) :
    (s.setResultThenFlag x v f).latch = s.latch := rfl

@[simp] theorem setResultThenFlag_closed (s : State) (x : Reg) (v f : Byte) :
    (s.setResultThenFlag x v f).closed = s.closed := rfl

@[simp] theorem setResultThenFlag_acc (s : State) (x : Reg) (v f : Byte) :
    (s.setResultThenFlag x v f).acc = s.acc := rfl

@[simp] theorem setResultThenFlag_tacc (s : State) (x : Reg) (v f : Byte) :
    (s.setResultThenFlag x v f).tacc = s.tacc := rfl

@[simp] theorem setResultThenFlag_tickCount (s : State) (x : Reg) (v f : Byte) :
    (s.setResultThenFlag x v f).tickCount = s.tickCount := rfl

@[simp] theorem setResultThenFlag_lastTickCount (s : State) (x : Reg) (v f : Byte) :
    (s.setResultThenFlag x v f).lastTickCount = s.lastTickCount := rfl

@[simp] theorem setResultThenFlag_fb (s : State) (x : Reg) (v f : Byte) :
    (s.setResultThenFlag x v f).fb = s.fb := rfl

@[simp] theorem setResultThenFlag_mem (s : State) (x : Reg) (v f : Byte) :
    (s.setResultThenFlag x v f).mem = s.mem := rfl

@[simp] theorem setResultThenFlag_reports (s : State) (x : Reg) (v f : Byte) :
    (s.setResultThenFlag x v f).reports = s.reports := rfl

@[simp] theorem setResultThenFlag_inputDraws (s : State) (x : Reg) (v f : Byte) :
    (s.setResultThenFlag x v f).inputDraws = s.inputDraws := rfl

@[simp] theorem setResultThenFlag_timeDraws (s : State) (x : Reg) (v f : Byte) :
    (s.setResultThenFlag x v f).timeDraws = s.timeDraws := rfl

@[simp] theorem setResultThenFlag_byteAt (s : State) (x : Reg) (v f : Byte) (a : Nat) :
    (s.setResultThenFlag x v f).byteAt a = s.byteAt a := rfl

@[simp] theorem setResultThenFlag_inMemory (s : State) (x : Reg) (v f : Byte) (a : Nat) :
    (s.setResultThenFlag x v f).inMemory a = s.inMemory a := rfl

/-! ### `report` -/

@[simp] theorem report_params (s : State) (e : Report) : (s.report e).params = s.params := rfl

@[simp] theorem report_regs (s : State) (e : Report) : (s.report e).regs = s.regs := rfl

@[simp] theorem report_index (s : State) (e : Report) : (s.report e).index = s.index := rfl

@[simp] theorem report_pc (s : State) (e : Report) : (s.report e).pc = s.pc := rfl

@[simp] theorem report_sp (s : State) (e : Report) : (s.report e).sp = s.sp := rfl

@[simp] theorem report_stack (s : State) (e : Report) : (s.report e).stack = s.stack := rfl

@[simp] theorem report_delayTimer (s : State) (e : Report) :
    (s.report e).delayTimer = s.delayTimer := rfl

@[simp] theorem report_soundTimer (s : State) (e : Report) :
    (s.report e).soundTimer = s.soundTimer := rfl

@[simp] theorem report_latch (s : State) (e : Report) : (s.report e).latch = s.latch := rfl

@[simp] theorem report_closed (s : State) (e : Report) : (s.report e).closed = s.closed := rfl

@[simp] theorem report_acc (s : State) (e : Report) : (s.report e).acc = s.acc := rfl

@[simp] theorem report_tacc (s : State) (e : Report) : (s.report e).tacc = s.tacc := rfl

@[simp] theorem report_tickCount (s : State) (e : Report) :
    (s.report e).tickCount = s.tickCount := rfl

@[simp] theorem report_lastTickCount (s : State) (e : Report) :
    (s.report e).lastTickCount = s.lastTickCount := rfl

@[simp] theorem report_fb (s : State) (e : Report) : (s.report e).fb = s.fb := rfl

@[simp] theorem report_mem (s : State) (e : Report) : (s.report e).mem = s.mem := rfl

@[simp] theorem report_reports (s : State) (e : Report) :
    (s.report e).reports = s.reports ++ [e] := rfl

@[simp] theorem report_inputDraws (s : State) (e : Report) :
    (s.report e).inputDraws = s.inputDraws := rfl

@[simp] theorem report_timeDraws (s : State) (e : Report) :
    (s.report e).timeDraws = s.timeDraws := rfl

@[simp] theorem report_reg (s : State) (e : Report) (j : Reg) : (s.report e).reg j = s.reg j := rfl

@[simp] theorem report_byteAt (s : State) (e : Report) (a : Nat) :
    (s.report e).byteAt a = s.byteAt a := rfl

@[simp] theorem report_inMemory (s : State) (e : Report) (a : Nat) :
    (s.report e).inMemory a = s.inMemory a := rfl

/-! ### `drawn` -/

@[simp] theorem drawn_params (s : State) : (s.drawn).params = s.params := rfl

@[simp] theorem drawn_regs (s : State) : (s.drawn).regs = s.regs := rfl

@[simp] theorem drawn_index (s : State) : (s.drawn).index = s.index := rfl

@[simp] theorem drawn_pc (s : State) : (s.drawn).pc = s.pc := rfl

@[simp] theorem drawn_sp (s : State) : (s.drawn).sp = s.sp := rfl

@[simp] theorem drawn_stack (s : State) : (s.drawn).stack = s.stack := rfl

@[simp] theorem drawn_delayTimer (s : State) : (s.drawn).delayTimer = s.delayTimer := rfl

@[simp] theorem drawn_soundTimer (s : State) : (s.drawn).soundTimer = s.soundTimer := rfl

@[simp] theorem drawn_latch (s : State) : (s.drawn).latch = s.latch := rfl

@[simp] theorem drawn_closed (s : State) : (s.drawn).closed = s.closed := rfl

@[simp] theorem drawn_acc (s : State) : (s.drawn).acc = s.acc := rfl

@[simp] theorem drawn_tacc (s : State) : (s.drawn).tacc = s.tacc := rfl

@[simp] theorem drawn_tickCount (s : State) : (s.drawn).tickCount = s.tickCount := rfl

@[simp] theorem drawn_lastTickCount (s : State) : (s.drawn).lastTickCount = s.lastTickCount := rfl

@[simp] theorem drawn_fb (s : State) : (s.drawn).fb = s.fb := rfl

@[simp] theorem drawn_mem (s : State) : (s.drawn).mem = s.mem := rfl

@[simp] theorem drawn_reports (s : State) : (s.drawn).reports = s.reports := rfl

@[simp] theorem drawn_inputDraws (s : State) : (s.drawn).inputDraws = s.inputDraws + 1 := rfl

@[simp] theorem drawn_timeDraws (s : State) : (s.drawn).timeDraws = s.timeDraws := rfl

@[simp] theorem drawn_reg (s : State) (j : Reg) : (s.drawn).reg j = s.reg j := rfl

@[simp] theorem drawn_byteAt (s : State) (a : Nat) : (s.drawn).byteAt a = s.byteAt a := rfl

@[simp] theorem drawn_inMemory (s : State) (a : Nat) : (s.drawn).inMemory a = s.inMemory a := rfl

/-! ### `raiseFault` -/

@[simp] theorem raiseFault_params (k : FaultKind) (w : Word) (s : State) :
    (raiseFault k w s).params = s.params := rfl

@[simp] theorem raiseFault_regs (k : FaultKind) (w : Word) (s : State) :
    (raiseFault k w s).regs = s.regs := rfl

@[simp] theorem raiseFault_index (k : FaultKind) (w : Word) (s : State) :
    (raiseFault k w s).index = s.index := rfl

@[simp] theorem raiseFault_pc (k : FaultKind) (w : Word) (s : State) :
    (raiseFault k w s).pc = s.pc := rfl

@[simp] theorem raiseFault_sp (k : FaultKind) (w : Word) (s : State) :
    (raiseFault k w s).sp = s.sp := rfl

@[simp] theorem raiseFault_stack (k : FaultKind) (w : Word) (s : State) :
    (raiseFault k w s).stack = s.stack := rfl

@[simp] theorem raiseFault_delayTimer (k : FaultKind) (w : Word) (s : State) :
    (raiseFault k w s).delayTimer = s.delayTimer := rfl

@[simp] theorem raiseFault_soundTimer (k : FaultKind) (w : Word) (s : State) :
    (raiseFault k w s).soundTimer = s.soundTimer := rfl

@[simp] theorem raiseFault_latch (k : FaultKind) (w : Word) (s : State) :
    (raiseFault k w s).latch = some k := rfl

@[simp] theorem raiseFault_closed (k : FaultKind) (w : Word) (s : State) :
    (raiseFault k w s).closed = s.closed := rfl

@[simp] theorem raiseFault_acc (k : FaultKind) (w : Word) (s : State) :
    (raiseFault k w s).acc = s.acc := rfl

@[simp] theorem raiseFault_tacc (k : FaultKind) (w : Word) (s : State) :
    (raiseFault k w s).tacc = s.tacc := rfl

@[simp] theorem raiseFault_tickCount (k : FaultKind) (w : Word) (s : State) :
    (raiseFault k w s).tickCount = s.tickCount := rfl

@[simp] theorem raiseFault_lastTickCount (k : FaultKind) (w : Word) (s : State) :
    (raiseFault k w s).lastTickCount = s.lastTickCount := rfl

@[simp] theorem raiseFault_fb (k : FaultKind) (w : Word) (s : State) :
    (raiseFault k w s).fb = s.fb := rfl

@[simp] theorem raiseFault_mem (k : FaultKind) (w : Word) (s : State) :
    (raiseFault k w s).mem = s.mem := rfl

@[simp] theorem raiseFault_reports (k : FaultKind) (w : Word) (s : State) :
    (raiseFault k w s).reports = s.reports ++ [.fault k s.pc w] := rfl

@[simp] theorem raiseFault_inputDraws (k : FaultKind) (w : Word) (s : State) :
    (raiseFault k w s).inputDraws = s.inputDraws := rfl

@[simp] theorem raiseFault_timeDraws (k : FaultKind) (w : Word) (s : State) :
    (raiseFault k w s).timeDraws = s.timeDraws := rfl

@[simp] theorem raiseFault_reg (k : FaultKind) (w : Word) (s : State) (j : Reg) :
    (raiseFault k w s).reg j = s.reg j := rfl

@[simp] theorem raiseFault_byteAt (k : FaultKind) (w : Word) (s : State) (a : Nat) :
    (raiseFault k w s).byteAt a = s.byteAt a := rfl

@[simp] theorem raiseFault_inMemory (k : FaultKind) (w : Word) (s : State) (a : Nat) :
    (raiseFault k w s).inMemory a = s.inMemory a := rfl

/-! ### `advance` -/

@[simp] theorem advance_params (s : State) : (advance s).params = s.params := rfl

@[simp] theorem advance_regs (s : State) : (advance s).regs = s.regs := rfl

@[simp] theorem advance_index (s : State) : (advance s).index = s.index := rfl

@[simp] theorem advance_pc (s : State) :
    (advance s).pc = if s.latch.isNone then s.pc + 2 else s.pc := rfl

@[simp] theorem advance_sp (s : State) : (advance s).sp = s.sp := rfl

@[simp] theorem advance_stack (s : State) : (advance s).stack = s.stack := rfl

@[simp] theorem advance_delayTimer (s : State) : (advance s).delayTimer = s.delayTimer := rfl

@[simp] theorem advance_soundTimer (s : State) : (advance s).soundTimer = s.soundTimer := rfl

@[simp] theorem advance_latch (s : State) : (advance s).latch = s.latch := rfl

@[simp] theorem advance_closed (s : State) : (advance s).closed = s.closed := rfl

@[simp] theorem advance_acc (s : State) : (advance s).acc = s.acc := rfl

@[simp] theorem advance_tacc (s : State) : (advance s).tacc = s.tacc := rfl

@[simp] theorem advance_tickCount (s : State) : (advance s).tickCount = s.tickCount := rfl

@[simp] theorem advance_lastTickCount (s : State) :
    (advance s).lastTickCount = s.lastTickCount := rfl

@[simp] theorem advance_fb (s : State) : (advance s).fb = s.fb := rfl

@[simp] theorem advance_mem (s : State) : (advance s).mem = s.mem := rfl

@[simp] theorem advance_reports (s : State) : (advance s).reports = s.reports := rfl

@[simp] theorem advance_inputDraws (s : State) : (advance s).inputDraws = s.inputDraws := rfl

@[simp] theorem advance_timeDraws (s : State) : (advance s).timeDraws = s.timeDraws := rfl

@[simp] theorem advance_reg (s : State) (j : Reg) : (advance s).reg j = s.reg j := rfl

@[simp] theorem advance_byteAt (s : State) (a : Nat) : (advance s).byteAt a = s.byteAt a := rfl

@[simp] theorem advance_inMemory (s : State) (a : Nat) :
    (advance s).inMemory a = s.inMemory a := rfl

/-! ### `jumpTo` -/

@[simp] theorem jumpTo_params (t : Word) (s : State) : (jumpTo t s).params = s.params := rfl

@[simp] theorem jumpTo_regs (t : Word) (s : State) : (jumpTo t s).regs = s.regs := rfl

@[simp] theorem jumpTo_index (t : Word) (s : State) : (jumpTo t s).index = s.index := rfl

@[simp] theorem jumpTo_pc (t : Word) (s : State) : (jumpTo t s).pc = t - 2 := rfl

@[simp] theorem jumpTo_sp (t : Word) (s : State) : (jumpTo t s).sp = s.sp := rfl

@[simp] theorem jumpTo_stack (t : Word) (s : State) : (jumpTo t s).stack = s.stack := rfl

@[simp] theorem jumpTo_delayTimer (t : Word) (s : State) :
    (jumpTo t s).delayTimer = s.delayTimer := rfl

@[simp] theorem jumpTo_soundTimer (t : Word) (s : State) :
    (jumpTo t s).soundTimer = s.soundTimer := rfl

@[simp] theorem jumpTo_latch (t : Word) (s : State) : (jumpTo t s).latch = s.latch := rfl

@[simp] theorem jumpTo_closed (t : Word) (s : State) : (jumpTo t s).closed = s.closed := rfl

@[simp] theorem jumpTo_acc (t : Word) (s : State) : (jumpTo t s).acc = s.acc := rfl

@[simp] theorem jumpTo_tacc (t : Word) (s : State) : (jumpTo t s).tacc = s.tacc := rfl

@[simp] theorem jumpTo_tickCount (t : Word) (s : State) :
    (jumpTo t s).tickCount = s.tickCount := rfl

@[simp] theorem jumpTo_lastTickCount (t : Word) (s : State) :
    (jumpTo t s).lastTickCount = s.lastTickCount := rfl

@[simp] theorem jumpTo_fb (t : Word) (s : State) : (jumpTo t s).fb = s.fb := rfl

@[simp] theorem jumpTo_mem (t : Word) (s : State) : (jumpTo t s).mem = s.mem := rfl

@[simp] theorem jumpTo_reports (t : Word) (s : State) : (jumpTo t s).reports = s.reports := rfl

@[simp] theorem jumpTo_inputDraws (t : Word) (s : State) :
    (jumpTo t s).inputDraws = s.inputDraws := rfl

@[simp] theorem jumpTo_timeDraws (t : Word) (s : State) :
    (jumpTo t s).timeDraws = s.timeDraws := rfl

@[simp] theorem jumpTo_reg (t : Word) (s : State) (j : Reg) : (jumpTo t s).reg j = s.reg j := rfl

@[simp] theorem jumpTo_byteAt (t : Word) (s : State) (a : Nat) :
    (jumpTo t s).byteAt a = s.byteAt a := rfl

@[simp] theorem jumpTo_inMemory (t : Word) (s : State) (a : Nat) :
    (jumpTo t s).inMemory a = s.inMemory a := rfl

/-! ### `skipIf` -/

@[simp] theorem skipIf_params (c : Bool) (s : State) : (skipIf c s).params = s.params := rfl

@[simp] theorem skipIf_regs (c : Bool) (s : State) : (skipIf c s).regs = s.regs := rfl

@[simp] theorem skipIf_index (c : Bool) (s : State) : (skipIf c s).index = s.index := rfl

@[simp] theorem skipIf_pc (c : Bool) (s : State) :
    (skipIf c s).pc = if c then s.pc + 2 else s.pc := rfl

@[simp] theorem skipIf_sp (c : Bool) (s : State) : (skipIf c s).sp = s.sp := rfl

@[simp] theorem skipIf_stack (c : Bool) (s : State) : (skipIf c s).stack = s.stack := rfl

@[simp] theorem skipIf_delayTimer (c : Bool) (s : State) :
    (skipIf c s).delayTimer = s.delayTimer := rfl

@[simp] theorem skipIf_soundTimer (c : Bool) (s : State) :
    (skipIf c s).soundTimer = s.soundTimer := rfl

@[simp] theorem skipIf_latch (c : Bool) (s : State) : (skipIf c s).latch = s.latch := rfl

@[simp] theorem skipIf_closed (c : Bool) (s : State) : (skipIf c s).closed = s.closed := rfl

@[simp] theorem skipIf_acc (c : Bool) (s : State) : (skipIf c s).acc = s.acc := rfl

@[simp] theorem skipIf_tacc (c : Bool) (s : State) : (skipIf c s).tacc = s.tacc := rfl

@[simp] theorem skipIf_tickCount (c : Bool) (s : State) :
    (skipIf c s).tickCount = s.tickCount := rfl

@[simp] theorem skipIf_lastTickCount (c : Bool) (s : State) :
    (skipIf c s).lastTickCount = s.lastTickCount := rfl

@[simp] theorem skipIf_fb (c : Bool) (s : State) : (skipIf c s).fb = s.fb := rfl

@[simp] theorem skipIf_mem (c : Bool) (s : State) : (skipIf c s).mem = s.mem := rfl

@[simp] theorem skipIf_reports (c : Bool) (s : State) : (skipIf c s).reports = s.reports := rfl

@[simp] theorem skipIf_inputDraws (c : Bool) (s : State) :
    (skipIf c s).inputDraws = s.inputDraws := rfl

@[simp] theorem skipIf_timeDraws (c : Bool) (s : State) :
    (skipIf c s).timeDraws = s.timeDraws := rfl

@[simp] theorem skipIf_reg (c : Bool) (s : State) (j : Reg) : (skipIf c s).reg j = s.reg j := rfl

@[simp] theorem skipIf_byteAt (c : Bool) (s : State) (a : Nat) :
    (skipIf c s).byteAt a = s.byteAt a := rfl

@[simp] theorem skipIf_inMemory (c : Bool) (s : State) (a : Nat) :
    (skipIf c s).inMemory a = s.inMemory a := rfl

/-! ### `timerDecrement` -/

@[simp] theorem timerDecrement_params (s : State) : (timerDecrement s).params = s.params := rfl

@[simp] theorem timerDecrement_regs (s : State) : (timerDecrement s).regs = s.regs := rfl

@[simp] theorem timerDecrement_index (s : State) : (timerDecrement s).index = s.index := rfl

@[simp] theorem timerDecrement_pc (s : State) : (timerDecrement s).pc = s.pc := rfl

@[simp] theorem timerDecrement_sp (s : State) : (timerDecrement s).sp = s.sp := rfl

@[simp] theorem timerDecrement_stack (s : State) : (timerDecrement s).stack = s.stack := rfl

@[simp] theorem timerDecrement_delayTimer (s : State) :
    (timerDecrement s).delayTimer = decrementTimer s.delayTimer := rfl

@[simp] theorem timerDecrement_soundTimer (s : State) :
    (timerDecrement s).soundTimer = decrementTimer s.soundTimer := rfl

@[simp] theorem timerDecrement_latch (s : State) : (timerDecrement s).latch = s.latch := rfl

@[simp] theorem timerDecrement_closed (s : State) : (timerDecrement s).closed = s.closed := rfl

@[simp] theorem timerDecrement_acc (s : State) : (timerDecrement s).acc = s.acc := rfl

@[simp] theorem timerDecrement_tacc (s : State) : (timerDecrement s).tacc = s.tacc := rfl

@[simp] theorem timerDecrement_tickCount (s : State) :
    (timerDecrement s).tickCount = s.tickCount := rfl

@[simp] theorem timerDecrement_lastTickCount (s : State) :
    (timerDecrement s).lastTickCount = s.lastTickCount := rfl

@[simp] theorem timerDecrement_fb (s : State) : (timerDecrement s).fb = s.fb := rfl

@[simp] theorem timerDecrement_mem (s : State) : (timerDecrement s).mem = s.mem := rfl

@[simp] theorem timerDecrement_reports (s : State) : (timerDecrement s).reports = s.reports := rfl

@[simp] theorem timerDecrement_inputDraws (s : State) :
    (timerDecrement s).inputDraws = s.inputDraws := rfl

@[simp] theorem timerDecrement_timeDraws (s : State) :
    (timerDecrement s).timeDraws = s.timeDraws := rfl

@[simp] theorem timerDecrement_reg (s : State) (j : Reg) : (timerDecrement s).reg j = s.reg j := rfl

@[simp] theorem timerDecrement_byteAt (s : State) (a : Nat) :
    (timerDecrement s).byteAt a = s.byteAt a := rfl

@[simp] theorem timerDecrement_inMemory (s : State) (a : Nat) :
    (timerDecrement s).inMemory a = s.inMemory a := rfl

/-! ### `openTick` -/

@[simp] theorem openTick_params (dt : Nat) (s : State) : (openTick dt s).params = s.params := rfl

@[simp] theorem openTick_regs (dt : Nat) (s : State) : (openTick dt s).regs = s.regs := rfl

@[simp] theorem openTick_index (dt : Nat) (s : State) : (openTick dt s).index = s.index := rfl

@[simp] theorem openTick_pc (dt : Nat) (s : State) : (openTick dt s).pc = s.pc := rfl

@[simp] theorem openTick_sp (dt : Nat) (s : State) : (openTick dt s).sp = s.sp := rfl

@[simp] theorem openTick_stack (dt : Nat) (s : State) : (openTick dt s).stack = s.stack := rfl

@[simp] theorem openTick_delayTimer (dt : Nat) (s : State) :
    (openTick dt s).delayTimer = s.delayTimer := rfl

@[simp] theorem openTick_soundTimer (dt : Nat) (s : State) :
    (openTick dt s).soundTimer = s.soundTimer := rfl

@[simp] theorem openTick_latch (dt : Nat) (s : State) : (openTick dt s).latch = s.latch := rfl

@[simp] theorem openTick_closed (dt : Nat) (s : State) : (openTick dt s).closed = s.closed := rfl

@[simp] theorem openTick_acc (dt : Nat) (s : State) : (openTick dt s).acc = s.acc + dt := rfl

@[simp] theorem openTick_tacc (dt : Nat) (s : State) : (openTick dt s).tacc = s.tacc + dt := rfl

@[simp] theorem openTick_tickCount (dt : Nat) (s : State) :
    (openTick dt s).tickCount = 0 := rfl

@[simp] theorem openTick_lastTickCount (dt : Nat) (s : State) :
    (openTick dt s).lastTickCount = s.lastTickCount := rfl

@[simp] theorem openTick_fb (dt : Nat) (s : State) : (openTick dt s).fb = s.fb := rfl

@[simp] theorem openTick_mem (dt : Nat) (s : State) : (openTick dt s).mem = s.mem := rfl

@[simp] theorem openTick_reports (dt : Nat) (s : State) :
    (openTick dt s).reports = s.reports := rfl

@[simp] theorem openTick_inputDraws (dt : Nat) (s : State) :
    (openTick dt s).inputDraws = s.inputDraws := rfl

@[simp] theorem openTick_timeDraws (dt : Nat) (s : State) :
    (openTick dt s).timeDraws = s.timeDraws := rfl

@[simp] theorem openTick_reg (dt : Nat) (s : State) (j : Reg) :
    (openTick dt s).reg j = s.reg j := rfl

@[simp] theorem openTick_byteAt (dt : Nat) (s : State) (a : Nat) :
    (openTick dt s).byteAt a = s.byteAt a := rfl

@[simp] theorem openTick_inMemory (dt : Nat) (s : State) (a : Nat) :
    (openTick dt s).inMemory a = s.inMemory a := rfl

/-! ### `spendPeriod` -/

@[simp] theorem spendPeriod_params (s : State) : (spendPeriod s).params = s.params := rfl

@[simp] theorem spendPeriod_regs (s : State) : (spendPeriod s).regs = s.regs := rfl

@[simp] theorem spendPeriod_index (s : State) : (spendPeriod s).index = s.index := rfl

@[simp] theorem spendPeriod_pc (s : State) : (spendPeriod s).pc = s.pc := rfl

@[simp] theorem spendPeriod_sp (s : State) : (spendPeriod s).sp = s.sp := rfl

@[simp] theorem spendPeriod_stack (s : State) : (spendPeriod s).stack = s.stack := rfl

@[simp] theorem spendPeriod_delayTimer (s : State) :
    (spendPeriod s).delayTimer = s.delayTimer := rfl

@[simp] theorem spendPeriod_soundTimer (s : State) :
    (spendPeriod s).soundTimer = s.soundTimer := rfl

@[simp] theorem spendPeriod_latch (s : State) : (spendPeriod s).latch = s.latch := rfl

@[simp] theorem spendPeriod_closed (s : State) : (spendPeriod s).closed = s.closed := rfl

@[simp] theorem spendPeriod_acc (s : State) :
    (spendPeriod s).acc = s.acc - s.params.instrPeriod := rfl

@[simp] theorem spendPeriod_tacc (s : State) : (spendPeriod s).tacc = s.tacc := rfl

@[simp] theorem spendPeriod_tickCount (s : State) : (spendPeriod s).tickCount = s.tickCount := rfl

@[simp] theorem spendPeriod_lastTickCount (s : State) :
    (spendPeriod s).lastTickCount = s.lastTickCount := rfl

@[simp] theorem spendPeriod_fb (s : State) : (spendPeriod s).fb = s.fb := rfl

@[simp] theorem spendPeriod_mem (s : State) : (spendPeriod s).mem = s.mem := rfl

@[simp] theorem spendPeriod_reports (s : State) : (spendPeriod s).reports = s.reports := rfl

@[simp] theorem spendPeriod_inputDraws (s : State) :
    (spendPeriod s).inputDraws = s.inputDraws := rfl

@[simp] theorem spendPeriod_timeDraws (s : State) : (spendPeriod s).timeDraws = s.timeDraws := rfl

@[simp] theorem spendPeriod_reg (s : State) (j : Reg) : (spendPeriod s).reg j = s.reg j := rfl

@[simp] theorem spendPeriod_byteAt (s : State) (a : Nat) :
    (spendPeriod s).byteAt a = s.byteAt a := rfl

@[simp] theorem spendPeriod_inMemory (s : State) (a : Nat) :
    (spendPeriod s).inMemory a = s.inMemory a := rfl

/-! ### `countCycle` -/

@[simp] theorem countCycle_params (s : State) : (countCycle s).params = s.params := rfl

@[simp] theorem countCycle_regs (s : State) : (countCycle s).regs = s.regs := rfl

@[simp] theorem countCycle_index (s : State) : (countCycle s).index = s.index := rfl

@[simp] theorem countCycle_pc (s : State) : (countCycle s).pc = s.pc := rfl

@[simp] theorem countCycle_sp (s : State) : (countCycle s).sp = s.sp := rfl

@[simp] theorem countCycle_stack (s : State) : (countCycle s).stack = s.stack := rfl

@[simp] theorem countCycle_delayTimer (s : State) : (countCycle s).delayTimer = s.delayTimer := rfl

@[simp] theorem countCycle_soundTimer (s : State) : (countCycle s).soundTimer = s.soundTimer := rfl

@[simp] theorem countCycle_latch (s : State) : (countCycle s).latch = s.latch := rfl

@[simp] theorem countCycle_closed (s : State) : (countCycle s).closed = s.closed := rfl

@[simp] theorem countCycle_acc (s : State) : (countCycle s).acc = s.acc := rfl

@[simp] theorem countCycle_tacc (s : State) : (countCycle s).tacc = s.tacc := rfl

@[simp] theorem countCycle_tickCount (s : State) :
    (countCycle s).tickCount = s.tickCount + 1 := rfl

@[simp] theorem countCycle_lastTickCount (s : State) :
    (countCycle s).lastTickCount = s.lastTickCount := rfl

@[simp] theorem countCycle_fb (s : State) : (countCycle s).fb = s.fb := rfl

@[simp] theorem countCycle_mem (s : State) : (countCycle s).mem = s.mem := rfl

@[simp] theorem countCycle_reports (s : State) : (countCycle s).reports = s.reports := rfl

@[simp] theorem countCycle_inputDraws (s : State) : (countCycle s).inputDraws = s.inputDraws := rfl

@[simp] theorem countCycle_timeDraws (s : State) : (countCycle s).timeDraws = s.timeDraws := rfl

@[simp] theorem countCycle_reg (s : State) (j : Reg) : (countCycle s).reg j = s.reg j := rfl

@[simp] theorem countCycle_byteAt (s : State) (a : Nat) :
    (countCycle s).byteAt a = s.byteAt a := rfl

@[simp] theorem countCycle_inMemory (s : State) (a : Nat) :
    (countCycle s).inMemory a = s.inMemory a := rfl

/-! ### `timerTurn` -/

@[simp] theorem timerTurn_params (s : State) : (timerTurn s).params = s.params := rfl

@[simp] theorem timerTurn_regs (s : State) : (timerTurn s).regs = s.regs := rfl

@[simp] theorem timerTurn_index (s : State) : (timerTurn s).index = s.index := rfl

@[simp] theorem timerTurn_pc (s : State) : (timerTurn s).pc = s.pc := rfl

@[simp] theorem timerTurn_sp (s : State) : (timerTurn s).sp = s.sp := rfl

@[simp] theorem timerTurn_stack (s : State) : (timerTurn s).stack = s.stack := rfl

@[simp] theorem timerTurn_delayTimer (s : State) :
    (timerTurn s).delayTimer = decrementTimer s.delayTimer := rfl

@[simp] theorem timerTurn_soundTimer (s : State) :
    (timerTurn s).soundTimer = decrementTimer s.soundTimer := rfl

@[simp] theorem timerTurn_latch (s : State) : (timerTurn s).latch = s.latch := rfl

@[simp] theorem timerTurn_closed (s : State) : (timerTurn s).closed = s.closed := rfl

@[simp] theorem timerTurn_acc (s : State) : (timerTurn s).acc = s.acc := rfl

@[simp] theorem timerTurn_tacc (s : State) :
    (timerTurn s).tacc = s.tacc - s.params.timerPeriod := rfl

@[simp] theorem timerTurn_tickCount (s : State) : (timerTurn s).tickCount = s.tickCount := rfl

@[simp] theorem timerTurn_lastTickCount (s : State) :
    (timerTurn s).lastTickCount = s.lastTickCount := rfl

@[simp] theorem timerTurn_fb (s : State) : (timerTurn s).fb = s.fb := rfl

@[simp] theorem timerTurn_mem (s : State) : (timerTurn s).mem = s.mem := rfl

@[simp] theorem timerTurn_reports (s : State) : (timerTurn s).reports = s.reports := rfl

@[simp] theorem timerTurn_inputDraws (s : State) : (timerTurn s).inputDraws = s.inputDraws := rfl

@[simp] theorem timerTurn_timeDraws (s : State) : (timerTurn s).timeDraws = s.timeDraws := rfl

@[simp] theorem timerTurn_reg (s : State) (j : Reg) : (timerTurn s).reg j = s.reg j := rfl

@[simp] theorem timerTurn_byteAt (s : State) (a : Nat) : (timerTurn s).byteAt a = s.byteAt a := rfl

@[simp] theorem timerTurn_inMemory (s : State) (a : Nat) :
    (timerTurn s).inMemory a = s.inMemory a := rfl

/-! ### `finishTick` -/

@[simp] theorem finishTick_params (s : State) : (finishTick s).params = s.params := rfl

@[simp] theorem finishTick_regs (s : State) : (finishTick s).regs = s.regs := rfl

@[simp] theorem finishTick_index (s : State) : (finishTick s).index = s.index := rfl

@[simp] theorem finishTick_pc (s : State) : (finishTick s).pc = s.pc := rfl

@[simp] theorem finishTick_sp (s : State) : (finishTick s).sp = s.sp := rfl

@[simp] theorem finishTick_stack (s : State) : (finishTick s).stack = s.stack := rfl

@[simp] theorem finishTick_delayTimer (s : State) : (finishTick s).delayTimer = s.delayTimer := rfl

@[simp] theorem finishTick_soundTimer (s : State) : (finishTick s).soundTimer = s.soundTimer := rfl

@[simp] theorem finishTick_latch (s : State) : (finishTick s).latch = s.latch := rfl

@[simp] theorem finishTick_closed (s : State) : (finishTick s).closed = s.closed := rfl

@[simp] theorem finishTick_acc (s : State) : (finishTick s).acc = s.acc := rfl

@[simp] theorem finishTick_tacc (s : State) : (finishTick s).tacc = s.tacc := rfl

@[simp] theorem finishTick_tickCount (s : State) : (finishTick s).tickCount = 0 := rfl

@[simp] theorem finishTick_lastTickCount (s : State) :
    (finishTick s).lastTickCount = s.tickCount := rfl

@[simp] theorem finishTick_fb (s : State) : (finishTick s).fb = s.fb := rfl

@[simp] theorem finishTick_mem (s : State) : (finishTick s).mem = s.mem := rfl

@[simp] theorem finishTick_reports (s : State) : (finishTick s).reports = s.reports := rfl

@[simp] theorem finishTick_inputDraws (s : State) : (finishTick s).inputDraws = s.inputDraws := rfl

@[simp] theorem finishTick_timeDraws (s : State) : (finishTick s).timeDraws = s.timeDraws := rfl

@[simp] theorem finishTick_reg (s : State) (j : Reg) : (finishTick s).reg j = s.reg j := rfl

@[simp] theorem finishTick_byteAt (s : State) (a : Nat) :
    (finishTick s).byteAt a = s.byteAt a := rfl

@[simp] theorem finishTick_inMemory (s : State) (a : Nat) :
    (finishTick s).inMemory a = s.inMemory a := rfl

/-! ### `finishTickIfOver` -/

@[simp] theorem finishTickIfOver_params (s : State) : (finishTickIfOver s).params = s.params := rfl

@[simp] theorem finishTickIfOver_regs (s : State) : (finishTickIfOver s).regs = s.regs := rfl

@[simp] theorem finishTickIfOver_index (s : State) : (finishTickIfOver s).index = s.index := rfl

@[simp] theorem finishTickIfOver_pc (s : State) : (finishTickIfOver s).pc = s.pc := rfl

@[simp] theorem finishTickIfOver_sp (s : State) : (finishTickIfOver s).sp = s.sp := rfl

@[simp] theorem finishTickIfOver_stack (s : State) : (finishTickIfOver s).stack = s.stack := rfl

@[simp] theorem finishTickIfOver_delayTimer (s : State) :
    (finishTickIfOver s).delayTimer = s.delayTimer := rfl

@[simp] theorem finishTickIfOver_soundTimer (s : State) :
    (finishTickIfOver s).soundTimer = s.soundTimer := rfl

@[simp] theorem finishTickIfOver_latch (s : State) : (finishTickIfOver s).latch = s.latch := rfl

@[simp] theorem finishTickIfOver_closed (s : State) : (finishTickIfOver s).closed = s.closed := rfl

@[simp] theorem finishTickIfOver_acc (s : State) : (finishTickIfOver s).acc = s.acc := rfl

@[simp] theorem finishTickIfOver_tacc (s : State) : (finishTickIfOver s).tacc = s.tacc := rfl

@[simp] theorem finishTickIfOver_tickCount (s : State) :
    (finishTickIfOver s).tickCount = if s.tickOver then 0 else s.tickCount := rfl

@[simp] theorem finishTickIfOver_lastTickCount (s : State) :
    (finishTickIfOver s).lastTickCount = if s.tickOver then s.tickCount else s.lastTickCount := rfl

@[simp] theorem finishTickIfOver_fb (s : State) : (finishTickIfOver s).fb = s.fb := rfl

@[simp] theorem finishTickIfOver_mem (s : State) : (finishTickIfOver s).mem = s.mem := rfl

@[simp] theorem finishTickIfOver_reports (s : State) :
    (finishTickIfOver s).reports = s.reports := rfl

@[simp] theorem finishTickIfOver_inputDraws (s : State) :
    (finishTickIfOver s).inputDraws = s.inputDraws := rfl

@[simp] theorem finishTickIfOver_timeDraws (s : State) :
    (finishTickIfOver s).timeDraws = s.timeDraws := rfl

@[simp] theorem finishTickIfOver_reg (s : State) (j : Reg) :
    (finishTickIfOver s).reg j = s.reg j := rfl

@[simp] theorem finishTickIfOver_byteAt (s : State) (a : Nat) :
    (finishTickIfOver s).byteAt a = s.byteAt a := rfl

@[simp] theorem finishTickIfOver_inMemory (s : State) (a : Nat) :
    (finishTickIfOver s).inMemory a = s.inMemory a := rfl

/-! ### `inactiveTick` -/

@[simp] theorem inactiveTick_params (dt : Nat) (s : State) :
    (inactiveTick dt s).params = s.params := rfl

@[simp] theorem inactiveTick_regs (dt : Nat) (s : State) : (inactiveTick dt s).regs = s.regs := rfl

@[simp] theorem inactiveTick_index (dt : Nat) (s : State) :
    (inactiveTick dt s).index = s.index := rfl

@[simp] theorem inactiveTick_pc (dt : Nat) (s : State) : (inactiveTick dt s).pc = s.pc := rfl

@[simp] theorem inactiveTick_sp (dt : Nat) (s : State) : (inactiveTick dt s).sp = s.sp := rfl

@[simp] theorem inactiveTick_stack (dt : Nat) (s : State) :
    (inactiveTick dt s).stack = s.stack := rfl

@[simp] theorem inactiveTick_delayTimer (dt : Nat) (s : State) :
    (inactiveTick dt s).delayTimer = s.delayTimer := rfl

@[simp] theorem inactiveTick_soundTimer (dt : Nat) (s : State) :
    (inactiveTick dt s).soundTimer = s.soundTimer := rfl

@[simp] theorem inactiveTick_latch (dt : Nat) (s : State) :
    (inactiveTick dt s).latch = s.latch := rfl

@[simp] theorem inactiveTick_closed (dt : Nat) (s : State) :
    (inactiveTick dt s).closed = s.closed := rfl

@[simp] theorem inactiveTick_acc (dt : Nat) (s : State) :
    (inactiveTick dt s).acc = s.acc + dt := rfl

@[simp] theorem inactiveTick_tacc (dt : Nat) (s : State) :
    (inactiveTick dt s).tacc = s.tacc + dt := rfl

@[simp] theorem inactiveTick_tickCount (dt : Nat) (s : State) :
    (inactiveTick dt s).tickCount = 0 := rfl

@[simp] theorem inactiveTick_lastTickCount (dt : Nat) (s : State) :
    (inactiveTick dt s).lastTickCount = 0 := rfl

@[simp] theorem inactiveTick_fb (dt : Nat) (s : State) : (inactiveTick dt s).fb = s.fb := rfl

@[simp] theorem inactiveTick_mem (dt : Nat) (s : State) : (inactiveTick dt s).mem = s.mem := rfl

@[simp] theorem inactiveTick_reports (dt : Nat) (s : State) :
    (inactiveTick dt s).reports = s.reports := rfl

@[simp] theorem inactiveTick_inputDraws (dt : Nat) (s : State) :
    (inactiveTick dt s).inputDraws = s.inputDraws := rfl

@[simp] theorem inactiveTick_timeDraws (dt : Nat) (s : State) :
    (inactiveTick dt s).timeDraws = s.timeDraws := rfl

@[simp] theorem inactiveTick_reg (dt : Nat) (s : State) (j : Reg) :
    (inactiveTick dt s).reg j = s.reg j := rfl

@[simp] theorem inactiveTick_byteAt (dt : Nat) (s : State) (a : Nat) :
    (inactiveTick dt s).byteAt a = s.byteAt a := rfl

@[simp] theorem inactiveTick_inMemory (dt : Nat) (s : State) (a : Nat) :
    (inactiveTick dt s).inMemory a = s.inMemory a := rfl

/-! ### `timerStep` -/

@[simp] theorem timerStep_params (s : State) : (timerStep s).params = s.params := rfl

@[simp] theorem timerStep_regs (s : State) : (timerStep s).regs = s.regs := rfl

@[simp] theorem timerStep_index (s : State) : (timerStep s).index = s.index := rfl

@[simp] theorem timerStep_pc (s : State) : (timerStep s).pc = s.pc := rfl

@[simp] theorem timerStep_sp (s : State) : (timerStep s).sp = s.sp := rfl

@[simp] theorem timerStep_stack (s : State) : (timerStep s).stack = s.stack := rfl

@[simp] theorem timerStep_delayTimer (s : State) :
    (timerStep s).delayTimer = decrementTimer s.delayTimer := rfl

@[simp] theorem timerStep_soundTimer (s : State) :
    (timerStep s).soundTimer = decrementTimer s.soundTimer := rfl

@[simp] theorem timerStep_latch (s : State) : (timerStep s).latch = s.latch := rfl

@[simp] theorem timerStep_closed (s : State) : (timerStep s).closed = s.closed := rfl

@[simp] theorem timerStep_acc (s : State) : (timerStep s).acc = s.acc := rfl

@[simp] theorem timerStep_tacc (s : State) :
    (timerStep s).tacc = s.tacc - s.params.timerPeriod := rfl

@[simp] theorem timerStep_tickCount (s : State) :
    (timerStep s).tickCount = if (timerTurn s).tickOver then 0 else s.tickCount := rfl

@[simp] theorem timerStep_lastTickCount (s : State) :
    (timerStep s).lastTickCount =
      if (timerTurn s).tickOver then s.tickCount else s.lastTickCount := rfl

@[simp] theorem timerStep_fb (s : State) : (timerStep s).fb = s.fb := rfl

@[simp] theorem timerStep_mem (s : State) : (timerStep s).mem = s.mem := rfl

@[simp] theorem timerStep_reports (s : State) : (timerStep s).reports = s.reports := rfl

@[simp] theorem timerStep_inputDraws (s : State) : (timerStep s).inputDraws = s.inputDraws := rfl

@[simp] theorem timerStep_timeDraws (s : State) : (timerStep s).timeDraws = s.timeDraws := rfl

@[simp] theorem timerStep_reg (s : State) (j : Reg) : (timerStep s).reg j = s.reg j := rfl

@[simp] theorem timerStep_byteAt (s : State) (a : Nat) : (timerStep s).byteAt a = s.byteAt a := rfl

@[simp] theorem timerStep_inMemory (s : State) (a : Nat) :
    (timerStep s).inMemory a = s.inMemory a := rfl

/-! ### `timeStep` -/

@[simp] theorem timeStep_params (s : State) : (timeStep s).params = s.params := rfl

@[simp] theorem timeStep_regs (s : State) : (timeStep s).regs = s.regs := rfl

@[simp] theorem timeStep_index (s : State) : (timeStep s).index = s.index := rfl

@[simp] theorem timeStep_pc (s : State) : (timeStep s).pc = s.pc := rfl

@[simp] theorem timeStep_sp (s : State) : (timeStep s).sp = s.sp := rfl

@[simp] theorem timeStep_stack (s : State) : (timeStep s).stack = s.stack := rfl

@[simp] theorem timeStep_delayTimer (s : State) : (timeStep s).delayTimer = s.delayTimer := rfl

@[simp] theorem timeStep_soundTimer (s : State) : (timeStep s).soundTimer = s.soundTimer := rfl

@[simp] theorem timeStep_latch (s : State) : (timeStep s).latch = s.latch := rfl

@[simp] theorem timeStep_closed (s : State) : (timeStep s).closed = s.closed := rfl

@[simp] theorem timeStep_acc (s : State) :
    (timeStep s).acc = s.acc + Config.tickTime s.timeDraws := rfl

@[simp] theorem timeStep_tacc (s : State) :
    (timeStep s).tacc = s.tacc + Config.tickTime s.timeDraws := rfl

@[simp] theorem timeStep_tickCount (s : State) : (timeStep s).tickCount = 0 := ite_self _

@[simp] theorem timeStep_lastTickCount (s : State) :
    (timeStep s).lastTickCount =
      if (openTick (Config.tickTime s.timeDraws) s).tickOver then 0 else s.lastTickCount := rfl

@[simp] theorem timeStep_fb (s : State) : (timeStep s).fb = s.fb := rfl

@[simp] theorem timeStep_mem (s : State) : (timeStep s).mem = s.mem := rfl

@[simp] theorem timeStep_reports (s : State) : (timeStep s).reports = s.reports := rfl

@[simp] theorem timeStep_inputDraws (s : State) : (timeStep s).inputDraws = s.inputDraws := rfl

@[simp] theorem timeStep_timeDraws (s : State) : (timeStep s).timeDraws = s.timeDraws + 1 := rfl

@[simp] theorem timeStep_reg (s : State) (j : Reg) : (timeStep s).reg j = s.reg j := rfl

@[simp] theorem timeStep_byteAt (s : State) (a : Nat) : (timeStep s).byteAt a = s.byteAt a := rfl

@[simp] theorem timeStep_inMemory (s : State) (a : Nat) :
    (timeStep s).inMemory a = s.inMemory a := rfl

/-! ### `inactiveStep` -/

@[simp] theorem inactiveStep_params (s : State) : (inactiveStep s).params = s.params := rfl

@[simp] theorem inactiveStep_regs (s : State) : (inactiveStep s).regs = s.regs := rfl

@[simp] theorem inactiveStep_index (s : State) : (inactiveStep s).index = s.index := rfl

@[simp] theorem inactiveStep_pc (s : State) : (inactiveStep s).pc = s.pc := rfl

@[simp] theorem inactiveStep_sp (s : State) : (inactiveStep s).sp = s.sp := rfl

@[simp] theorem inactiveStep_stack (s : State) : (inactiveStep s).stack = s.stack := rfl

@[simp] theorem inactiveStep_delayTimer (s : State) :
    (inactiveStep s).delayTimer = s.delayTimer := rfl

@[simp] theorem inactiveStep_soundTimer (s : State) :
    (inactiveStep s).soundTimer = s.soundTimer := rfl

@[simp] theorem inactiveStep_latch (s : State) : (inactiveStep s).latch = s.latch := rfl

@[simp] theorem inactiveStep_closed (s : State) : (inactiveStep s).closed = s.closed := rfl

@[simp] theorem inactiveStep_acc (s : State) :
    (inactiveStep s).acc = s.acc + Config.tickTime s.timeDraws := rfl

@[simp] theorem inactiveStep_tacc (s : State) :
    (inactiveStep s).tacc = s.tacc + Config.tickTime s.timeDraws := rfl

@[simp] theorem inactiveStep_tickCount (s : State) : (inactiveStep s).tickCount = 0 := rfl

@[simp] theorem inactiveStep_lastTickCount (s : State) : (inactiveStep s).lastTickCount = 0 := rfl

@[simp] theorem inactiveStep_fb (s : State) : (inactiveStep s).fb = s.fb := rfl

@[simp] theorem inactiveStep_mem (s : State) : (inactiveStep s).mem = s.mem := rfl

@[simp] theorem inactiveStep_reports (s : State) : (inactiveStep s).reports = s.reports := rfl

@[simp] theorem inactiveStep_inputDraws (s : State) :
    (inactiveStep s).inputDraws = s.inputDraws := rfl

@[simp] theorem inactiveStep_timeDraws (s : State) :
    (inactiveStep s).timeDraws = s.timeDraws + 1 := rfl

@[simp] theorem inactiveStep_reg (s : State) (j : Reg) : (inactiveStep s).reg j = s.reg j := rfl

@[simp] theorem inactiveStep_byteAt (s : State) (a : Nat) :
    (inactiveStep s).byteAt a = s.byteAt a := rfl

@[simp] theorem inactiveStep_inMemory (s : State) (a : Nat) :
    (inactiveStep s).inMemory a = s.inMemory a := rfl

/-! ### The conditions that the operations test, as propositions -/

/-- An address is in range iff it is below MEM_SIZE (20_memory R72). -/
theorem inMemory_iff {s : State} {a : Nat} : s.inMemory a = true ↔ a < s.params.memSize := by
  simp [State.inMemory]

/-- An address is out of range iff it is MEM_SIZE or above. -/
theorem not_inMemory_iff {s : State} {a : Nat} : s.inMemory a = false ↔ s.params.memSize ≤ a := by
  rw [← Bool.not_eq_true, inMemory_iff, Nat.not_lt]

/-- A cycle is due iff the accumulator holds a period (40_cycle R147). -/
theorem cycleDue_iff {s : State} : s.cycleDue = true ↔ s.params.instrPeriod ≤ s.acc := by
  simp [State.cycleDue]

/-- No cycle is due iff the accumulator holds less than a period. -/
theorem not_cycleDue_iff {s : State} : s.cycleDue = false ↔ s.acc < s.params.instrPeriod := by
  rw [← Bool.not_eq_true, cycleDue_iff, Nat.not_le]

/-- A timer decrement is due iff the timer domain's accumulator holds a period (40_cycle R147). -/
theorem decrementDue_iff {s : State} : s.decrementDue = true ↔ s.params.timerPeriod ≤ s.tacc := by
  simp [State.decrementDue]

/-- No timer decrement is due iff the timer domain's accumulator holds less than a period. -/
theorem not_decrementDue_iff {s : State} :
    s.decrementDue = false ↔ s.tacc < s.params.timerPeriod := by
  rw [← Bool.not_eq_true, decrementDue_iff, Nat.not_le]

/-- A tick is over iff a fault is latched, or neither a cycle nor a decrement is due (40_cycle R147). -/
theorem tickOver_iff {s : State} : s.tickOver = true ↔
    s.latch ≠ none ∨ s.cycleDue = false ∧ s.decrementDue = false := by
  simp [State.tickOver, Option.isSome_iff_ne_none]

/-- A machine is active iff no fault is latched and it is not closed (40_cycle R150). -/
theorem active_iff {s : State} : s.active = true ↔ s.latch = none ∧ s.closed = false := by
  simp [State.active]

/-! ### Registers: a read after a write -/

/-- Reading a register after writing one (10_state R30). -/
@[simp] theorem setReg_reg (s : State) (i : Reg) (v : Byte) (j : Reg) :
    (s.setReg i v).reg j = if i = j then v else s.reg j := by
  unfold State.reg State.setReg
  rw [Vector.getElem_set]
  simp [BitVec.toNat_inj]

/-- Reading a register after writing the flag register (10_state R31). -/
@[simp] theorem setFlag_reg (s : State) (v : Byte) (j : Reg) :
    (s.setFlag v).reg j = if s.params.flag = j then v else s.reg j :=
  setReg_reg s s.params.flag v j

/-- Reading a register after a result and a flag have been written, in that order (42_load_alu R200). -/
@[simp] theorem setResultThenFlag_reg (s : State) (x : Reg) (v f : Byte) (j : Reg) :
    (s.setResultThenFlag x v f).reg j =
      if s.params.flag = j then f else if x = j then v else s.reg j := by
  rw [State.setResultThenFlag, setFlag_reg, setReg_reg, setReg_params]

/-- Writing a register changes the register file alone. -/
theorem setReg_frame (s : State) (i : Reg) (v : Byte) :
    s.setReg i v = { s with regs := (s.setReg i v).regs } := rfl

/-- Two states with the same registers read by number and the same other fields are equal. -/
theorem regs_ext (a b : Vector Byte 16) (h : ∀ i : Reg, a[i.toNat] = b[i.toNat]) : a = b := by
  apply Vector.ext
  intro k hk
  have := h (BitVec.ofNat 4 k)
  simpa [Nat.mod_eq_of_lt hk] using this

end Sys2Proof.Machine
end

