-- ==== Sys2Proof/Laws/Memory.lean ====
section
/-! SUPPORT. The laws of memory (spec/20_memory.md R72, R73, R83): a read after a write, and that every
memory operation keeps the canonical form and the bound on addresses. -/

namespace Sys2Proof.Machine

/-! ### Reading after writing -/

/-- A cell placed in front of higher addresses is what its address reads. -/
theorem get_consCell {a : Nat} {v : Byte} {m : Memory} (h : ∀ c ∈ m, a < c.1) (k : Nat) :
    (Memory.consCell a v m).get k = if k = a then v else m.get k := by
  have unlisted : ∀ m : Memory, (∀ c ∈ m, a < c.1) → m.get a = unlistedByte := by
    intro m hm
    induction m with
    | nil => rfl
    | cons c m ih =>
      have := hm c (by simp)
      simp only [Memory.get]
      rw [if_neg (by omega), ih fun d hd => hm d (by simp [hd])]
  unfold Memory.consCell
  by_cases hv : v = unlistedByte
  · rw [if_pos hv]
    by_cases hk : k = a
    · rw [if_pos hk, hk, unlisted m h, hv]
    · rw [if_neg hk]
  · rw [if_neg hv]; rfl

/-- The addresses of a canonical memory rise. -/
theorem wf_tail {c : Host.Cell} {m : Memory} (h : Memory.wf (c :: m) = true) :
    (∀ d ∈ m, c.1 < d.1) ∧ c.2 ≠ unlistedByte ∧ m.wf = true := by
  simp only [Memory.wf, List.pairwise_cons, Bool.and_eq_true, decide_eq_true_eq, List.all_cons,
    bne_iff_ne] at h ⊢
  exact ⟨h.1.1, h.2.1, h.1.2, h.2.2⟩

theorem wf_cons {a : Nat} {v : Byte} {m : Memory} (h : ∀ d ∈ m, a < d.1) (hv : v ≠ unlistedByte)
    (hm : m.wf = true) : Memory.wf ((a, v) :: m) = true := by
  simp only [Memory.wf, List.pairwise_cons, Bool.and_eq_true, decide_eq_true_eq, List.all_cons,
    bne_iff_ne] at hm ⊢
  exact ⟨⟨h, hm.1⟩, hv, hm.2⟩

/-- A read after a write: the written address gives the written byte, every other address what it
gave (20_memory R83). -/
theorem get_set {m : Memory} (hm : m.wf = true) (a : Nat) (v : Byte) (k : Nat) :
    (m.set a v).get k = if k = a then v else m.get k := by
  induction m with
  | nil => exact get_consCell (by simp) k
  | cons c m ih =>
    obtain ⟨b, w⟩ := c
    obtain ⟨hlt, -, hwf⟩ := wf_tail hm
    simp only [Memory.set]
    split
    · rename_i hab
      exact get_consCell (by
        intro d hd
        rcases List.mem_cons.1 hd with rfl | hd
        · exact hab
        · exact Nat.lt_trans hab (hlt d hd)) k
    split
    · rename_i hab
      subst hab
      rw [get_consCell hlt k]
      by_cases hk : k = a <;> simp [Memory.get, hk]
    · rename_i hab
      simp only [Memory.get, ih hwf]
      by_cases hk : k = b
      · rw [if_pos hk, if_pos hk, if_neg (by omega)]
      · rw [if_neg hk, if_neg hk]

/-! ### The canonical form -/

theorem wf_consCell {a : Nat} {v : Byte} {m : Memory} (h : ∀ d ∈ m, a < d.1) (hm : m.wf = true) :
    (Memory.consCell a v m).wf = true := by
  unfold Memory.consCell
  split
  · exact hm
  · exact wf_cons h ‹_› hm

/-- Every address that a write lists was listed before or is the written one. -/
theorem mem_set_addr {m : Memory} {a : Nat} {v : Byte} {c : Host.Cell} (h : c ∈ m.set a v) :
    c.1 = a ∨ c ∈ m := by
  have cons : ∀ {l : Memory}, c ∈ Memory.consCell a v l → c.1 = a ∨ c ∈ l := by
    intro l hl
    unfold Memory.consCell at hl
    split at hl
    · exact .inr hl
    · rcases List.mem_cons.1 hl with rfl | hl
      · exact .inl rfl
      · exact .inr hl
  induction m with
  | nil => exact (cons h).imp_right id
  | cons d m ih =>
    obtain ⟨b, w⟩ := d
    simp only [Memory.set] at h
    split at h
    · exact cons h
    split at h
    · exact (cons h).imp_right (List.mem_cons_of_mem _)
    · rcases List.mem_cons.1 h with rfl | h
      · exact .inr (by simp)
      · exact (ih h).imp_right (List.mem_cons_of_mem _)

/-- A write keeps the canonical form. -/
theorem wf_set {m : Memory} (hm : m.wf = true) (a : Nat) (v : Byte) : (m.set a v).wf = true := by
  induction m with
  | nil => exact wf_consCell (by simp) hm
  | cons c m ih =>
    obtain ⟨b, w⟩ := c
    obtain ⟨hlt, hw, hwf⟩ := wf_tail hm
    simp only [Memory.set]
    split
    · rename_i hab
      refine wf_consCell ?_ hm
      intro d hd
      rcases List.mem_cons.1 hd with rfl | hd
      · exact hab
      · exact Nat.lt_trans hab (hlt d hd)
    split
    · rename_i hab
      subst hab
      exact wf_consCell hlt hwf
    · rename_i h₁ h₂
      refine wf_cons ?_ hw (ih hwf)
      intro d hd
      rcases mem_set_addr hd with h | h
      · show b < d.1
        omega
      · exact hlt d h

/-- A write within the capacity keeps every listed address within it. -/
theorem within_set {m : Memory} {n a : Nat} (hm : m.within n = true) (ha : a < n) (v : Byte) :
    (m.set a v).within n = true := by
  simp only [Memory.within, List.all_eq_true, decide_eq_true_eq] at hm ⊢
  intro c hc
  rcases mem_set_addr hc with h | h
  · omega
  · exact hm c h

/-! ### Launch images -/

theorem le_of_mem_ofBytes {a : Nat} {bytes : List Byte} {c : Host.Cell}
    (h : c ∈ Memory.ofBytes a bytes) : a ≤ c.1 := by
  induction bytes generalizing a with
  | nil => simp [Memory.ofBytes] at h
  | cons v bytes ih =>
    simp only [Memory.ofBytes, Memory.consCell] at h
    split at h
    · exact Nat.le_of_succ_le (ih h)
    · rcases List.mem_cons.1 h with rfl | h
      · exact Nat.le_refl _
      · exact Nat.le_of_succ_le (ih h)

/-- The memory of a launch image is canonical. -/
theorem wf_ofBytes (a : Nat) (bytes : List Byte) : (Memory.ofBytes a bytes).wf = true := by
  induction bytes generalizing a with
  | nil => rfl
  | cons v bytes ih => exact wf_consCell (fun d hd => le_of_mem_ofBytes hd) (ih (a + 1))

/-- A launch image of `bytes` from address `a` on lists no address beyond its end. -/
theorem within_ofBytes {a n : Nat} {bytes : List Byte} (h : a + bytes.length ≤ n) :
    (Memory.ofBytes a bytes).within n = true := by
  simp only [Memory.within, List.all_eq_true, decide_eq_true_eq]
  induction bytes generalizing a with
  | nil => simp [Memory.ofBytes]
  | cons v bytes ih =>
    simp only [List.length_cons] at h
    intro c hc
    simp only [Memory.ofBytes, Memory.consCell] at hc
    split at hc
    · exact ih (by omega) c hc
    · rcases List.mem_cons.1 hc with rfl | hc
      · dsimp only
        omega
      · exact ih (by omega) c hc

/-- A launch image reads as its bytes. -/
theorem get_ofBytes (a : Nat) (bytes : List Byte) (k : Nat) :
    (Memory.ofBytes a bytes).get (a + k) = bytes.getD k unlistedByte := by
  induction bytes generalizing a k with
  | nil => simp [Memory.ofBytes, Memory.get]
  | cons v bytes ih =>
    rw [Memory.ofBytes, get_consCell fun d hd => le_of_mem_ofBytes hd]
    cases k with
    | zero => simp
    | succ k =>
      rw [if_neg (by omega), show a + (k + 1) = a + 1 + k by omega, ih]
      simp

end Sys2Proof.Machine
end

