-- ==== Sys2Proof/Laws/Ops.lean ====
section
/-! SUPPORT. For each shared operation of Machine/Ops.lean, and for the loader, one lemma that says
everything it can do, so that a proof about an instruction cites it and unfolds nothing. -/

namespace Sys2Proof.Machine

/-! ### Memory accesses (20_memory R72, R73) -/

/-- A read answers the byte there, or 0 out of range, and may append one report (R72). -/
theorem memRead_eq (a : Nat) (s : State) :
    memRead a s = (s.byteAt a, { s with reports := s.reports ++ readReports s a }) := by
  unfold memRead State.byteAt readReports
  split <;> simp [State.report]

/-- The byte at an address in range. -/
theorem byteAt_of_lt {s : State} {a : Nat} (h : a < s.params.memSize) : s.byteAt a = s.mem.get a :=
  if_pos ((inMemory_iff).2 h)

/-- The byte at an address out of range. -/
theorem byteAt_of_le {s : State} {a : Nat} (h : s.params.memSize ≤ a) : s.byteAt a = 0 :=
  if_neg fun h' => Nat.not_lt.2 h ((inMemory_iff).1 h')

/-- A write stores in range, reports out of range, and changes nothing else (R73). -/
theorem memWrite_eq (a : Nat) (v : Byte) (s : State) :
    memWrite a v s = (s.inMemory a, { s with
      mem := if s.inMemory a then s.mem.set a v else s.mem
      reports := s.reports ++ writeReports s a v }) := by
  unfold memWrite writeReports
  cases h : s.inMemory a <;> simp [State.report]

/-- What every address reads after a write (20_memory R73, R83). -/
theorem memWrite_byteAt {s : State} (hm : s.mem.wf = true) (a : Nat) (v : Byte) (b : Nat) :
    (memWrite a v s).2.byteAt b = if b = a ∧ s.inMemory a = true then v else s.byteAt b := by
  rw [memWrite_eq]
  simp only [State.byteAt, State.inMemory]
  by_cases ha : a < s.params.memSize
  · by_cases hb : b = a <;> simp [ha, hb, get_set hm]
  · simp [ha]

/-- A write keeps memory legal. -/
theorem memWrite_memLegal {s : State} (h : s.memLegal) (a : Nat) (v : Byte) :
    (memWrite a v s).2.memLegal := by
  rw [memWrite_eq]
  unfold State.memLegal State.inMemory at *
  by_cases ha : a < s.params.memSize
  · simpa [ha] using ⟨wf_set h.1 a v, within_set h.2 ha v⟩
  · simpa [ha] using h

/-- The fetch: the bytes at pc and pc + 1, high byte first, and the reports of those out of range
(20_memory R76). -/
theorem fetch_eq (s : State) :
    fetch s = (wordOfBytes (s.byteAt s.pc.toNat) (s.byteAt (s.pc.toNat + 1)),
      { s with reports := s.reports ++ readReports s s.pc.toNat ++ readReports s (s.pc.toNat + 1) }) := by
  simp only [fetch, memRead_eq]
  rfl

/-! ### The stack unit (10_state R58, R59) -/

/-- A push with a free slot. -/
theorem push_ok {s : State} (v : Word) (h : s.sp.toNat < 16) :
    push v s = some { s with stack := s.stack.set s.sp.toNat v, sp := s.sp + 1 } := by
  simp [push, h]

/-- A push with no free slot. -/
theorem push_overflow {s : State} (v : Word) (h : 16 ≤ s.sp.toNat) : push v s = none := by
  simp [push, Nat.not_lt.2 h]

/-- A pop with an occupied slot. -/
theorem pop_ok {s : State} (h0 : 0 < s.sp.toNat) (h : s.sp.toNat ≤ 16) :
    pop s = .ok (s.stack[s.sp.toNat - 1]'(by omega)) { s with sp := s.sp - 1 } := by
  have : s.sp ≠ 0 := by intro hs; simp [hs] at h0
  unfold pop
  rw [if_neg this, dif_pos (by omega)]

/-- A pop of the empty stack. -/
theorem pop_underflow {s : State} (h : s.sp = 0) : pop s = .underflow := by simp [pop, h]

/-- A pop with sp out of its range. -/
theorem pop_noSlot {s : State} (h : 16 < s.sp.toNat) : pop s = .noSlot := by
  have : s.sp ≠ 0 := by intro hs; simp [hs] at h
  unfold pop
  rw [if_neg this, dif_neg (by omega)]

/-- A call either pushes and transfers, or raises StackOverflow (41_control_flow R173). -/
theorem callTo_eq (t w : Word) (s : State) :
    (s.sp.toNat < 16 ∧ callTo t w s =
      { s with stack := s.stack.setIfInBounds s.sp.toNat s.pc, sp := s.sp + 1, pc := t - 2 }) ∨
    (16 ≤ s.sp.toNat ∧ callTo t w s = raiseFault .stackOverflow w s) := by
  unfold callTo
  by_cases h : s.sp.toNat < 16
  · refine .inl ⟨h, ?_⟩
    rw [push_ok _ h]
    simp only [jumpTo, State.mk.injEq, and_true, true_and]
    apply Vector.ext
    intro k hk
    simp [Vector.getElem_set, Vector.getElem_setIfInBounds]
  · refine .inr ⟨by omega, ?_⟩
    rw [push_overflow _ (by omega)]

/-! ### Block transfers (44_input_timer_misc R299 to R301) -/

/-- Storing a block changes memory and reports alone. -/
theorem storeBlock_frame (k : Nat) (s : State) :
    storeBlock k s = { s with
      mem := (storeBlock k s).mem
      reports := s.reports ++ storeReports s k } := by
  induction k with
  | zero => simp [storeBlock, storeReports]
  | succ k ih =>
    have h : storeBlock (k + 1) s = (memWrite ((storeBlock k s).dataAddress k)
      ((storeBlock k s).reg (regOfNat k)) (storeBlock k s)).2 := rfl
    rw [h, ih, memWrite_eq]
    simp [storeReports, State.dataAddress, State.reg, writeReports, State.inMemory]

/-- What every address reads after a block is stored: the k-th byte from I on is register k. -/
theorem storeBlock_spec {s : State} (hm : s.mem.wf = true) (k : Nat) :
    (storeBlock k s).mem.wf = true ∧
    ∀ a, (storeBlock k s).byteAt a =
      if s.dataAddress 0 ≤ a ∧ a < s.dataAddress k ∧ s.inMemory a = true
      then s.reg (regOfNat (a - s.dataAddress 0)) else s.byteAt a := by
  induction k with
  | zero =>
    refine ⟨hm, fun a => ?_⟩
    rw [if_neg (by omega)]
    rfl
  | succ k ih =>
    obtain ⟨hwf, hb⟩ := ih
    have h : storeBlock (k + 1) s = (memWrite (s.dataAddress k)
        (s.reg (regOfNat k)) (storeBlock k s)).2 := by
      show (memWrite ((storeBlock k s).dataAddress k)
        ((storeBlock k s).reg (regOfNat k)) (storeBlock k s)).2 = _
      rw [storeBlock_frame k s]
      rfl
    have hin : ∀ a, (storeBlock k s).inMemory a = s.inMemory a := by
      intro a
      rw [storeBlock_frame k s]
      rfl
    constructor
    · rw [h, memWrite_eq]
      dsimp only
      split
      · exact wf_set hwf _ _
      · exact hwf
    · intro a
      rw [h, memWrite_byteAt hwf, hin, hb a]
      have d0 : s.dataAddress 0 = s.index.toNat := rfl
      have dk : s.dataAddress k = s.index.toNat + k := rfl
      have dk1 : s.dataAddress (k + 1) = s.index.toNat + (k + 1) := rfl
      by_cases ha : a = s.dataAddress k
      · subst ha
        have e : s.dataAddress k - s.dataAddress 0 = k := by omega
        cases hs : s.inMemory (s.dataAddress k)
        · rw [if_neg (by simp), if_neg (by simp), if_neg (by simp)]
        · rw [if_pos ⟨rfl, rfl⟩, if_pos ⟨by omega, by omega, rfl⟩, e]
      · rw [if_neg fun h => ha h.1]
        by_cases h1 : s.dataAddress 0 ≤ a ∧ a < s.dataAddress k ∧ s.inMemory a = true
        · rw [if_pos h1, if_pos ⟨h1.1, by omega, h1.2.2⟩]
        · rw [if_neg h1, if_neg fun h => h1 ⟨h.1, by omega, h.2.2⟩]

/-- Storing a block keeps memory legal. -/
theorem storeBlock_memLegal {s : State} (h : s.memLegal) (k : Nat) :
    (storeBlock k s).memLegal := by
  induction k with
  | zero => exact h
  | succ k ih => exact memWrite_memLegal ih _ _

/-- Loading a block changes registers and reports alone. -/
theorem loadBlock_frame (k : Nat) (s : State) :
    loadBlock k s = { s with
      regs := (loadBlock k s).regs
      reports := s.reports ++ loadReports s k } := by
  induction k with
  | zero => simp [loadBlock, loadReports]
  | succ k ih =>
    have h : loadBlock (k + 1) s =
        ((memRead ((loadBlock k s).dataAddress k) (loadBlock k s)).2.setReg (regOfNat k)
          (memRead ((loadBlock k s).dataAddress k) (loadBlock k s)).1) := rfl
    rw [h, ih, memRead_eq]
    simp [loadReports, State.dataAddress, State.setReg, readReports, State.inMemory]

/-- What every register holds after `k` bytes are loaded, k at most 16: register j below k the byte at
I + j, every other register what it held (44_input_timer_misc R301). -/
theorem loadBlock_reg {k : Nat} (hk : k ≤ 16) (s : State) (j : Reg) :
    (loadBlock k s).reg j = if j.toNat < k then s.byteAt (s.dataAddress j.toNat) else s.reg j := by
  induction k with
  | zero => rw [if_neg (by omega)]; rfl
  | succ k ih =>
    have h : loadBlock (k + 1) s =
        ((memRead ((loadBlock k s).dataAddress k) (loadBlock k s)).2.setReg (regOfNat k)
          (memRead ((loadBlock k s).dataAddress k) (loadBlock k s)).1) := rfl
    have hb : ∀ a, (loadBlock k s).byteAt a = s.byteAt a := by
      intro a; rw [loadBlock_frame k s]; rfl
    have hd : (loadBlock k s).dataAddress k = s.dataAddress k := by
      rw [loadBlock_frame k s]; rfl
    have hr : ∀ r, ({ loadBlock k s with reports := r } : State).reg j = (loadBlock k s).reg j :=
      fun _ => rfl
    rw [h, memRead_eq]
    dsimp only
    rw [setReg_reg, hb, hd, hr, ih (by omega)]
    have hj : regOfNat k = j ↔ k = j.toNat := by
      unfold regOfNat
      rw [← BitVec.toNat_inj, BitVec.toNat_ofNat, Nat.mod_eq_of_lt (by omega)]
    by_cases h1 : k = j.toNat
    · rw [if_pos (hj.2 h1), if_pos (by omega), h1]
    · rw [if_neg (fun h => h1 (hj.1 h))]
      by_cases h2 : j.toNat < k
      · rw [if_pos h2, if_pos (by omega)]
      · rw [if_neg h2, if_neg (by omega)]

/-- The three writes of Fx33: memory and reports alone (R299). -/
theorem storeDigits_frame (v : Byte) (s : State) :
    storeDigits v s = { s with
      mem := (storeDigits v s).mem
      reports := s.reports ++ writeReports s (s.dataAddress 0) (hundredsDigit v) ++
        writeReports s (s.dataAddress 1) (tensDigit v) ++
        writeReports s (s.dataAddress 2) (onesDigit v) } := by
  simp only [storeDigits, memWrite_eq]
  rfl

/-- What every address reads after Fx33: the digits at I, I + 1 and I + 2, each if in range. -/
theorem storeDigits_byteAt {s : State} (hm : s.mem.wf = true) (v : Byte) (a : Nat) :
    (storeDigits v s).byteAt a =
      if s.inMemory a = true ∧ a = s.dataAddress 2 then onesDigit v
      else if s.inMemory a = true ∧ a = s.dataAddress 1 then tensDigit v
      else if s.inMemory a = true ∧ a = s.dataAddress 0 then hundredsDigit v
      else s.byteAt a := by
  have wf : ∀ (t : State) a v, t.mem.wf = true → (memWrite a v t).2.mem.wf = true := by
    intro t a v h
    rw [memWrite_eq]
    dsimp only
    split
    · exact wf_set h _ _
    · exact h
  have hin : ∀ (t : State) a v b, (memWrite a v t).2.inMemory b = t.inMemory b := by
    intro t a v b; rw [memWrite_eq]; rfl
  unfold storeDigits
  rw [memWrite_byteAt (wf _ _ _ (wf _ _ _ hm)), memWrite_byteAt (wf _ _ _ hm),
    memWrite_byteAt hm]
  simp only [hin]
  have e1 : s.dataAddress 1 ≠ s.dataAddress 2 := by simp only [State.dataAddress]; omega
  have e0 : s.dataAddress 0 ≠ s.dataAddress 1 := by simp only [State.dataAddress]; omega
  have e2 : s.dataAddress 0 ≠ s.dataAddress 2 := by simp only [State.dataAddress]; omega
  rcases eq_or_ne a (s.dataAddress 2) with rfl | h2
  · simp [e1.symm, e2.symm, and_comm]
  rcases eq_or_ne a (s.dataAddress 1) with rfl | h1
  · simp [e1, e0.symm, and_comm]
  rcases eq_or_ne a (s.dataAddress 0) with rfl | h0
  · simp [e2, e0, and_comm]
  simp [h0, h1, h2]

/-- Fx33 keeps memory legal. -/
theorem storeDigits_memLegal {s : State} (h : s.memLegal) (v : Byte) :
    (storeDigits v s).memLegal :=
  memWrite_memLegal (memWrite_memLegal (memWrite_memLegal h _ _) _ _) _ _

/-! ### The loader (60_exceptions R360) -/

/-- One write leaves what is in memory's range. -/
theorem imageReports_memWrite (a b : Nat) (v : Byte) (s : State) (image : List Byte) :
    imageReports (memWrite a v s).2 b image = imageReports s b image := by
  induction image generalizing b with
  | nil => rfl
  | cons w image ih =>
    rw [imageReports, imageReports, ih]
    rw [memWrite_eq]
    rfl

/-- Loading an image changes memory and reports alone. -/
theorem loadBytes_frame (a : Nat) (image : List Byte) (s : State) :
    loadBytes a image s = { s with
      mem := (loadBytes a image s).mem
      reports := s.reports ++ imageReports s a image } := by
  induction image generalizing a s with
  | nil => simp [loadBytes, imageReports]
  | cons v image ih =>
    have h : loadBytes a (v :: image) s = loadBytes (a + 1) image (memWrite a v s).2 := rfl
    rw [h, ih, imageReports_memWrite, memWrite_eq]
    simp [imageReports, List.append_assoc]

/-- Loading an image keeps memory legal. -/
theorem loadBytes_memLegal {s : State} (h : s.memLegal) (a : Nat) (image : List Byte) :
    (loadBytes a image s).memLegal := by
  induction image generalizing a s with
  | nil => exact h
  | cons v image ih => exact ih (memWrite_memLegal h a v) (a + 1)

/-! ### Timers (40_cycle R148) -/

/-- One decrement goes toward zero and stops there. -/
theorem decrementTimer_toNat (t : Byte) : (decrementTimer t).toNat = t.toNat - 1 := by
  unfold decrementTimer
  split
  · simp [*]
  · rename_i h
    have : t.toNat ≠ 0 := fun h0 => h (BitVec.eq_of_toNat_eq (by simpa using h0))
    rw [BitVec.toNat_sub]
    have := t.isLt
    rw [show (1 : Byte).toNat = 1 from rfl]
    omega

/-- Everything the timer decrements of a tick do: as many as periods fit, each timer toward zero and no
further, the remainder left over, and nothing else (40_cycle R147 step 4, R148). -/
theorem timerLoop_spec {n : Nat} {s : State} (h : s.tacc / s.params.timerPeriod = n) :
    timerLoop n s = { s with
      delayTimer := (timerLoop n s).delayTimer
      soundTimer := (timerLoop n s).soundTimer
      tacc := s.tacc % s.params.timerPeriod } ∧
    (timerLoop n s).delayTimer.toNat = s.delayTimer.toNat - n ∧
    (timerLoop n s).soundTimer.toNat = s.soundTimer.toNat - n := by
  induction n generalizing s with
  | zero =>
    refine ⟨?_, rfl, rfl⟩
    have hm := Nat.div_add_mod s.tacc s.params.timerPeriod
    rw [h, Nat.mul_zero, Nat.zero_add] at hm
    rw [timerLoop, hm]
  | succ n ih =>
    have hpos : 0 < s.params.timerPeriod := by
      rcases Nat.eq_zero_or_pos s.params.timerPeriod with h0 | h0
      · rw [h0, Nat.div_zero] at h; omega
      · exact h0
    have hle : s.params.timerPeriod ≤ s.tacc := by
      by_contra hlt
      rw [Nat.div_eq_of_lt (by omega)] at h; omega
    have hn : (timerTurn s).tacc / (timerTurn s).params.timerPeriod = n := by
      have := Nat.div_eq_sub_div hpos hle
      simp only [timerTurn_tacc, timerTurn_params]
      omega
    have hmod : (s.tacc - s.params.timerPeriod) % s.params.timerPeriod =
        s.tacc % s.params.timerPeriod := (Nat.mod_eq_sub_mod hle).symm
    obtain ⟨i1, i2, i3⟩ := ih hn
    have e : timerLoop (n + 1) s = timerLoop n (timerTurn s) := by
      rw [timerLoop, if_pos (decrementDue_iff.2 hle)]
    rw [e]
    refine ⟨?_, ?_, ?_⟩
    · rw [i1, timerTurn_tacc, timerTurn_params, hmod]
      rfl
    · rw [i2, timerTurn_delayTimer, decrementTimer_toNat]; omega
    · rw [i3, timerTurn_soundTimer, decrementTimer_toNat]; omega

/-! ### The end of a tick (40_cycle R147) -/

/-- When the tick is over, it ends. -/
theorem finishTickIfOver_of_over {s : State} (h : s.tickOver = true) :
    finishTickIfOver s = finishTick s := by
  simp only [finishTickIfOver, h, if_true]
  rfl

/-- When the tick goes on, nothing happens between two of its steps (40_cycle R149). -/
theorem finishTickIfOver_of_not_over {s : State} (h : s.tickOver = false) :
    finishTickIfOver s = s := by
  simp only [finishTickIfOver, h, Bool.false_eq_true, if_false]

end Sys2Proof.Machine
end

