-- ==== Sys2Proof/Laws/Framebuffer.lean ====
section
/-! SUPPORT. The laws of the framebuffer controller and of the sprite draw (spec/43_display.md). -/

namespace Sys2Proof.Machine

/-! ### Pixels -/

@[simp] theorem invertPixel_width (fb : Framebuffer) (x y : Nat) :
    (fb.invertPixel x y).width = fb.width := rfl

@[simp] theorem invertPixel_height (fb : Framebuffer) (x y : Nat) :
    (fb.invertPixel x y).height = fb.height := rfl

@[simp] theorem invertPixel_changed (fb : Framebuffer) (x y : Nat) :
    (fb.invertPixel x y).changed = true := rfl

@[simp] theorem invertPixel_length (fb : Framebuffer) (x y : Nat) :
    (fb.invertPixel x y).pix.length = fb.pix.length := by
  simp [Framebuffer.invertPixel, Framebuffer.withPixel]

/-- An in-range pixel has a position in the grid. -/
theorem position_lt {fb : Framebuffer} (h : fb.wf = true) {x y : Nat} (hx : x < fb.width)
    (hy : y < fb.height) : fb.position x y < fb.pix.length := by
  simp only [Framebuffer.wf, Bool.and_eq_true, decide_eq_true_eq] at h
  rw [h.2, Framebuffer.position]
  calc y * fb.width + x < y * fb.width + fb.width := by omega
    _ = (y + 1) * fb.width := by ring
    _ ≤ fb.height * fb.width := Nat.mul_le_mul_right _ hy
    _ = fb.width * fb.height := Nat.mul_comm _ _

/-- Two in-range pixels with the same position are the same pixel. -/
theorem position_inj {fb : Framebuffer} {x y x' y' : Nat} (hx : x < fb.width) (hx' : x' < fb.width)
    (h : fb.position x y = fb.position x' y') : x = x' ∧ y = y' := by
  unfold Framebuffer.position at h
  have hw : 0 < fb.width := by omega
  have hy : y = y' := by
    have := congrArg (· / fb.width) h
    simpa [Nat.add_comm, Nat.add_mul_div_right _ _ hw, Nat.div_eq_of_lt, hx, hx'] using this
  subst hy
  omega

/-- Reading a pixel after inverting one (43_display R253). -/
theorem invertPixel_pixel {fb : Framebuffer} (h : fb.wf = true) {x y : Nat} (hx : x < fb.width)
    (hy : y < fb.height) {x' y' : Nat} (hx' : x' < fb.width) :
    (fb.invertPixel x y).pixel x' y' =
      if x = x' ∧ y = y' then !fb.pixel x' y' else fb.pixel x' y' := by
  have hl := position_lt h hx hy
  have e : (fb.invertPixel x y).pixel x' y' =
      (fb.pix.set (fb.position x y) (!fb.pixel x y)).getD (fb.position x' y') false := rfl
  rw [e]
  by_cases hp : x = x' ∧ y = y'
  · obtain ⟨rfl, rfl⟩ := hp
    simp [List.getD_eq_getElem?_getD, hl]
  · have : fb.position x y ≠ fb.position x' y' := fun hh => hp (position_inj hx hx' hh)
    simp [hp, List.getD_eq_getElem?_getD, List.getElem?_set_ne this, Framebuffer.pixel]

theorem invertPixel_wf {fb : Framebuffer} (h : fb.wf = true) (x y : Nat) :
    (fb.invertPixel x y).wf = true := by
  simpa [Framebuffer.wf] using h

/-- A blank framebuffer with at least one column and row is well formed (43_display R250). -/
theorem blank_wf {w h : Nat} (hm : modeWellFormed w h = true) :
    (Framebuffer.blank w h).wf = true := by
  simp [Framebuffer.wf, Framebuffer.blank, hm]

theorem clear_wf {fb : Framebuffer} (h : fb.wf = true) : fb.clear.wf = true := by
  simpa [Framebuffer.wf, Framebuffer.clear] using h

/-! ### The sprite draw (43_display R261): what it keeps -/

/-- A relation that a draw respects if inverting a pixel does. -/
theorem drawColumns_induct {P : Framebuffer → Prop}
    (hP : ∀ fb x y, P fb → P (fb.invertPixel x y)) (x0 py : Nat) (b : Byte) (c : Nat)
    (d : Framebuffer × Bool) (h : P d.1) : P (drawColumns x0 py b c d).1 := by
  induction c with
  | zero => exact h
  | succ c ih =>
    simp only [drawColumns, drawBit]
    split
    · exact hP _ _ _ ih
    · exact ih

/-- One row changes the framebuffer and the reports alone. -/
theorem drawRow_eq (x0 y0 base r : Nat) (d : State × Bool) :
    drawRow x0 y0 base r d =
      ({ d.1 with
          fb := (drawColumns x0 ((y0 + r) % d.1.fb.height) (d.1.byteAt (base + r)) 8 (d.1.fb, d.2)).1
          reports := d.1.reports ++ readReports d.1 (base + r) },
        (drawColumns x0 ((y0 + r) % d.1.fb.height) (d.1.byteAt (base + r)) 8 (d.1.fb, d.2)).2) := by
  unfold drawRow
  rw [memRead_eq]

/-- A draw changes the framebuffer and the reports alone. -/
theorem drawRows_frame (x0 y0 base n : Nat) (s : State) :
    (drawRows x0 y0 base n s).1 = { s with
      fb := (drawRows x0 y0 base n s).1.fb
      reports := s.reports ++ spriteReports s base n } := by
  induction n with
  | zero => simp [drawRows, spriteReports]
  | succ n ih =>
    simp only [drawRows, drawRow_eq]
    rw [ih]
    simp only [spriteReports, readReports, State.inMemory, List.append_assoc]
    rfl

/-- What inverting a pixel keeps, a draw keeps. -/
theorem drawRows_induct {P : Framebuffer → Prop}
    (hP : ∀ fb x y, P fb → P (fb.invertPixel x y)) (x0 y0 base n : Nat) (s : State) (h : P s.fb) :
    P (drawRows x0 y0 base n s).1.fb := by
  induction n with
  | zero => exact h
  | succ n ih =>
    simp only [drawRows, drawRow_eq]
    exact drawColumns_induct hP _ _ _ _ _ ih

/-- A draw keeps the mode. -/
theorem drawRows_mode (x0 y0 base n : Nat) (s : State) :
    (drawRows x0 y0 base n s).1.fb.width = s.fb.width ∧
      (drawRows x0 y0 base n s).1.fb.height = s.fb.height :=
  drawRows_induct (P := fun fb => fb.width = s.fb.width ∧ fb.height = s.fb.height)
    (fun _ _ _ h => h) x0 y0 base n s ⟨rfl, rfl⟩

/-- A draw keeps a framebuffer well formed. -/
theorem drawRows_wf (x0 y0 base n : Nat) {s : State} (h : s.fb.wf = true) :
    (drawRows x0 y0 base n s).1.fb.wf = true :=
  drawRows_induct (P := fun fb => fb.wf = true) (fun _ x y h => invertPixel_wf h x y) x0 y0 base n s h

end Sys2Proof.Machine
end

