-- ==== Sys2Proof/Laws/PerInstr.lean ====
section
/-! SUPPORT. Statements made per instruction. `RowFit`: the word of an instruction selects the row of
the opcode map that the instruction belongs to (spec/30_encoding.md R110), and no field of the
instruction reaches a bit that the row's mask fixes. -/

namespace Sys2Proof.Laws.RowFit

/-- The encoding of `i` selects the row of `i` in the opcode map. -/
def Statement (i : Instr) : Prop := selectsRow (encode i) (opcodeRow i) = true

/-- A packed word, masked to its family, is the family. -/
theorem family (f : Nibble) (nnn : Addr) : packNnn f nnn &&& 0xF000 = packNnn f 0#12 := by
  rw [← packNnn_fields (packNnn f nnn &&& 0xF000), fieldF_and, fieldNnn_and, fieldF_packNnn,
    fieldNnn_packNnn, show fieldF 0xF000 = BitVec.allOnes 4 by decide, BitVec.and_allOnes,
    show fieldNnn 0xF000 = 0#12 by decide, BitVec.and_zero]

/-- A packed word, masked to its family and low byte. -/
theorem familyKk (f : Nibble) (x : Reg) (kk : Byte) : packXKk f x kk &&& 0xF0FF = packXKk f 0#4 kk := by
  rw [← packXKk_fields (packXKk f x kk &&& 0xF0FF), fieldF_and, fieldKk_and, fieldF_packXKk,
    fieldKk_packXKk, show fieldF 0xF0FF = BitVec.allOnes 4 by decide, BitVec.and_allOnes,
    show fieldKk 0xF0FF = BitVec.allOnes 8 by decide, BitVec.and_allOnes, fieldX_and,
    show fieldX 0xF0FF = 0#4 by decide, BitVec.and_zero]

/-- A packed word, masked to its family and low nibble. -/
theorem familyN (f : Nibble) (x y : Reg) (n : Nibble) :
    packXYN f x y n &&& 0xF00F = packXYN f 0#4 0#4 n := by
  rw [← packXYN_fields (packXYN f x y n &&& 0xF00F), fieldF_and, fieldN_and, fieldF_packXYN,
    fieldN_packXYN, show fieldF 0xF00F = BitVec.allOnes 4 by decide, BitVec.and_allOnes,
    show fieldN 0xF00F = BitVec.allOnes 4 by decide, BitVec.and_allOnes, fieldX_and, fieldY_and,
    show fieldX 0xF00F = 0#4 by decide, show fieldY 0xF00F = 0#4 by decide, BitVec.and_zero,
    BitVec.and_zero]

theorem cls : Statement .cls := by
  unfold Statement; decide

theorem ret : Statement .ret := by
  unfold Statement; decide

theorem jp (nnn : Addr) : Statement (.jp nnn) := by
  simp only [Statement, selectsRow, encode, opcodeRow]
  exact beq_iff_eq.2 ((family _ _).trans (by decide))

theorem call (nnn : Addr) : Statement (.call nnn) := by
  simp only [Statement, selectsRow, encode, opcodeRow]
  exact beq_iff_eq.2 ((family _ _).trans (by decide))

theorem seImm (x : Reg) (kk : Byte) : Statement (.seImm x kk) := by
  simp only [Statement, selectsRow, encode, opcodeRow]
  exact beq_iff_eq.2 ((family _ _).trans (by decide))

theorem sneImm (x : Reg) (kk : Byte) : Statement (.sneImm x kk) := by
  simp only [Statement, selectsRow, encode, opcodeRow]
  exact beq_iff_eq.2 ((family _ _).trans (by decide))

theorem seReg (x : Reg) (y : Reg) (n : Nibble) : Statement (.seReg x y n) := by
  simp only [Statement, selectsRow, encode, opcodeRow]
  exact beq_iff_eq.2 ((family _ _).trans (by decide))

theorem ldImm (x : Reg) (kk : Byte) : Statement (.ldImm x kk) := by
  simp only [Statement, selectsRow, encode, opcodeRow]
  exact beq_iff_eq.2 ((family _ _).trans (by decide))

theorem addImm (x : Reg) (kk : Byte) : Statement (.addImm x kk) := by
  simp only [Statement, selectsRow, encode, opcodeRow]
  exact beq_iff_eq.2 ((family _ _).trans (by decide))

theorem ldReg (x : Reg) (y : Reg) : Statement (.ldReg x y) := by
  simp only [Statement, selectsRow, encode, opcodeRow]
  exact beq_iff_eq.2 ((familyN _ _ _ _).trans (by decide))

theorem orReg (x : Reg) (y : Reg) : Statement (.orReg x y) := by
  simp only [Statement, selectsRow, encode, opcodeRow]
  exact beq_iff_eq.2 ((familyN _ _ _ _).trans (by decide))

theorem andReg (x : Reg) (y : Reg) : Statement (.andReg x y) := by
  simp only [Statement, selectsRow, encode, opcodeRow]
  exact beq_iff_eq.2 ((familyN _ _ _ _).trans (by decide))

theorem xorReg (x : Reg) (y : Reg) : Statement (.xorReg x y) := by
  simp only [Statement, selectsRow, encode, opcodeRow]
  exact beq_iff_eq.2 ((familyN _ _ _ _).trans (by decide))

theorem addReg (x : Reg) (y : Reg) : Statement (.addReg x y) := by
  simp only [Statement, selectsRow, encode, opcodeRow]
  exact beq_iff_eq.2 ((familyN _ _ _ _).trans (by decide))

theorem subReg (x : Reg) (y : Reg) : Statement (.subReg x y) := by
  simp only [Statement, selectsRow, encode, opcodeRow]
  exact beq_iff_eq.2 ((familyN _ _ _ _).trans (by decide))

theorem shr (x : Reg) (y : Reg) : Statement (.shr x y) := by
  simp only [Statement, selectsRow, encode, opcodeRow]
  exact beq_iff_eq.2 ((familyN _ _ _ _).trans (by decide))

theorem subnReg (x : Reg) (y : Reg) : Statement (.subnReg x y) := by
  simp only [Statement, selectsRow, encode, opcodeRow]
  exact beq_iff_eq.2 ((familyN _ _ _ _).trans (by decide))

theorem shl (x : Reg) (y : Reg) : Statement (.shl x y) := by
  simp only [Statement, selectsRow, encode, opcodeRow]
  exact beq_iff_eq.2 ((familyN _ _ _ _).trans (by decide))

theorem sneReg (x : Reg) (y : Reg) (n : Nibble) : Statement (.sneReg x y n) := by
  simp only [Statement, selectsRow, encode, opcodeRow]
  exact beq_iff_eq.2 ((family _ _).trans (by decide))

theorem ldI (nnn : Addr) : Statement (.ldI nnn) := by
  simp only [Statement, selectsRow, encode, opcodeRow]
  exact beq_iff_eq.2 ((family _ _).trans (by decide))

theorem callV0 (nnn : Addr) : Statement (.callV0 nnn) := by
  simp only [Statement, selectsRow, encode, opcodeRow]
  exact beq_iff_eq.2 ((family _ _).trans (by decide))

theorem rnd (x : Reg) (kk : Byte) : Statement (.rnd x kk) := by
  simp only [Statement, selectsRow, encode, opcodeRow]
  exact beq_iff_eq.2 ((family _ _).trans (by decide))

theorem drw (x : Reg) (y : Reg) (n : Nibble) : Statement (.drw x y n) := by
  simp only [Statement, selectsRow, encode, opcodeRow]
  exact beq_iff_eq.2 ((family _ _).trans (by decide))

theorem skp (x : Reg) : Statement (.skp x) := by
  simp only [Statement, selectsRow, encode, opcodeRow]
  exact beq_iff_eq.2 ((familyKk _ _ _).trans (by decide))

theorem sknp (x : Reg) : Statement (.sknp x) := by
  simp only [Statement, selectsRow, encode, opcodeRow]
  exact beq_iff_eq.2 ((familyKk _ _ _).trans (by decide))

theorem ldVxDt (x : Reg) : Statement (.ldVxDt x) := by
  simp only [Statement, selectsRow, encode, opcodeRow]
  exact beq_iff_eq.2 ((familyKk _ _ _).trans (by decide))

theorem ldVxK (x : Reg) : Statement (.ldVxK x) := by
  simp only [Statement, selectsRow, encode, opcodeRow]
  exact beq_iff_eq.2 ((familyKk _ _ _).trans (by decide))

theorem ldDtVx (x : Reg) : Statement (.ldDtVx x) := by
  simp only [Statement, selectsRow, encode, opcodeRow]
  exact beq_iff_eq.2 ((familyKk _ _ _).trans (by decide))

theorem ldStVx (x : Reg) : Statement (.ldStVx x) := by
  simp only [Statement, selectsRow, encode, opcodeRow]
  exact beq_iff_eq.2 ((familyKk _ _ _).trans (by decide))

theorem addI (x : Reg) : Statement (.addI x) := by
  simp only [Statement, selectsRow, encode, opcodeRow]
  exact beq_iff_eq.2 ((familyKk _ _ _).trans (by decide))

theorem ldF (x : Reg) : Statement (.ldF x) := by
  simp only [Statement, selectsRow, encode, opcodeRow]
  exact beq_iff_eq.2 ((familyKk _ _ _).trans (by decide))

theorem ldB (x : Reg) : Statement (.ldB x) := by
  simp only [Statement, selectsRow, encode, opcodeRow]
  exact beq_iff_eq.2 ((familyKk _ _ _).trans (by decide))

theorem storeRegs (x : Reg) : Statement (.storeRegs x) := by
  simp only [Statement, selectsRow, encode, opcodeRow]
  exact beq_iff_eq.2 ((familyKk _ _ _).trans (by decide))

theorem loadRegs (x : Reg) : Statement (.loadRegs x) := by
  simp only [Statement, selectsRow, encode, opcodeRow]
  exact beq_iff_eq.2 ((familyKk _ _ _).trans (by decide))

end Sys2Proof.Laws.RowFit
end

