-- ==== Sys2Proof/Laws/Step.lean ====
section
/-! SUPPORT. What one step can do, said once (spec/40_cycle.md), what every instruction leaves to the
Scheduler, and the induction over a run. -/

namespace Sys2Proof.Machine

/-! ### One step -/

/-- A step of an inactive machine lets a tick pass (40_cycle R153). -/
theorem step_inactive {s : State} (h : s.active = false) : step s = .next (inactiveStep s) := by
  simp [step, scheduledStep, h]

/-- A step of an active machine with a cycle due is the instruction step. -/
theorem step_cycle {s : State} (h : s.active = true) (hc : s.cycleDue = true) :
    step s = instructionStep s := by
  simp [step, scheduledStep, h, hc]

/-- A step of an active machine with a timer decrement due, but no cycle, is the timer step. -/
theorem step_timer {s : State} (h : s.active = true) (hc : s.cycleDue = false)
    (hd : s.decrementDue = true) : step s = .next (timerStep s) := by
  simp [step, scheduledStep, h, hc, hd]

/-- A step of an active machine with nothing due opens a tick. -/
theorem step_time {s : State} (h : s.active = true) (hc : s.cycleDue = false)
    (hd : s.decrementDue = false) : step s = .next (timeStep s) := by
  simp [step, scheduledStep, h, hc, hd]

/-- The instruction step, unfolded once: the fetch, then what the word decodes to. -/
theorem instructionStep_eq (s : State) :
    instructionStep s = andThen (dispatch (decodeWord (fetch (spendPeriod s)).1)
      (fetch (spendPeriod s)).1 (fetch (spendPeriod s)).2)
      fun t => .next (finishTickIfOver (countCycle t)) := by
  unfold instructionStep cycleTurn cycle
  dsimp only
  generalize dispatch _ _ _ = r
  cases r <;> rfl

/-- Everything a step that answers a next state can have done: a tick of an inactive machine, the
opening of a tick, a timer decrement, or a cycle, of an illegal word or of an instruction. -/
theorem step_cases {s t : State} (h : step s = .next t) :
    (s.active = false ∧ t = inactiveStep s) ∨
    (s.active = true ∧ s.cycleDue = false ∧ s.decrementDue = false ∧ t = timeStep s) ∨
    (s.active = true ∧ s.cycleDue = false ∧ s.decrementDue = true ∧ t = timerStep s) ∨
    (s.active = true ∧ s.cycleDue = true ∧ ∃ w u, fetch (spendPeriod s) = (w, u) ∧
      ((∃ r, decodeWord w = .error r ∧
          t = finishTickIfOver (countCycle (raiseFault .unknownOpcode w u))) ∨
        ∃ i v, decodeWord w = .ok i ∧ exec i u = .next v ∧
          t = finishTickIfOver (countCycle (advance v)))) := by
  cases ha : s.active with
  | false =>
    rw [step_inactive ha] at h
    exact .inl ⟨rfl, by simpa using h.symm⟩
  | true =>
    cases hc : s.cycleDue with
    | false =>
      cases hd : s.decrementDue with
      | false =>
        rw [step_time ha hc hd] at h
        exact .inr (.inl ⟨rfl, rfl, rfl, by simpa using h.symm⟩)
      | true =>
        rw [step_timer ha hc hd] at h
        exact .inr (.inr (.inl ⟨rfl, rfl, rfl, by simpa using h.symm⟩))
    | true =>
      rw [step_cycle ha hc, instructionStep_eq] at h
      refine .inr (.inr (.inr
        ⟨rfl, rfl, (fetch (spendPeriod s)).1, (fetch (spendPeriod s)).2, rfl, ?_⟩))
      generalize (fetch (spendPeriod s)).1 = w at *
      generalize (fetch (spendPeriod s)).2 = u at *
      cases hd : decodeWord w with
      | error r =>
        simp only [hd, dispatch, andThen, Host.Outcome.next.injEq] at h
        exact .inl ⟨r, rfl, h.symm⟩
      | ok i =>
        simp only [hd, dispatch, andThen] at h
        cases he : exec i u with
        | next v =>
          simp only [he, Host.Outcome.next.injEq] at h
          exact .inr ⟨i, v, rfl, he, h.symm⟩
        | fault e => simp [he] at h
        | refused e => simp [he] at h

/-! ### What every instruction leaves to the Scheduler -/

/-- The fields that no instruction reads or writes (10_state R42): the parameters, the closed flag and
the Scheduler's bookkeeping. -/
def SameScheduling (s t : State) : Prop :=
  t.params = s.params ∧ t.closed = s.closed ∧ t.acc = s.acc ∧ t.tacc = s.tacc ∧
    t.tickCount = s.tickCount ∧ t.lastTickCount = s.lastTickCount ∧ t.timeDraws = s.timeDraws

theorem callTo_sameScheduling (t w : Word) (s : State) : SameScheduling s (callTo t w s) := by
  rcases callTo_eq t w s with ⟨-, h⟩ | ⟨-, h⟩ <;> rw [h] <;> exact ⟨rfl, rfl, rfl, rfl, rfl, rfl, rfl⟩

/-- No instruction changes a field that belongs to the Scheduler or the host. -/
theorem exec_sameScheduling {i : Instr} {s t : State} (h : exec i s = .next t) :
    SameScheduling s t := by
  have triv : ∀ {u : State}, (Host.Outcome.next u : Result) = .next t → SameScheduling s u →
      SameScheduling s t := by
    intro u hu hs
    obtain rfl : u = t := by simpa using hu
    exact hs
  have same : SameScheduling s s := ⟨rfl, rfl, rfl, rfl, rfl, rfl, rfl⟩
  cases i with
  | ret =>
    simp only [exec, execRet] at h
    split at h
    · rename_i v u hp
      unfold pop at hp
      split at hp
      · exact absurd hp (by simp)
      split at hp
      · simp only [Popped.ok.injEq] at hp
        obtain ⟨-, rfl⟩ := hp
        exact triv h same
      · exact absurd hp (by simp)
    · exact triv h same
    · exact absurd h (by simp)
  | call nnn => exact triv h (callTo_sameScheduling _ _ s)
  | callV0 nnn => exact triv h (callTo_sameScheduling _ _ s)
  | drw x y n =>
    refine triv h ?_
    unfold SameScheduling
    simp only [setFlag_params, setFlag_closed, setFlag_acc, setFlag_tacc, setFlag_tickCount,
      setFlag_lastTickCount, setFlag_timeDraws]
    rw [drawRows_frame]
    exact same
  | ldVxK x =>
    simp only [exec, execLdVxK] at h
    split at h <;> exact triv h same
  | ldB x =>
    refine triv h ?_
    rw [storeDigits_frame]
    exact same
  | storeRegs x =>
    refine triv h ?_
    rw [storeBlock_frame]
    exact same
  | loadRegs x =>
    refine triv h ?_
    rw [loadBlock_frame]
    exact same
  | _ => exact triv h same

/-! ### Runs -/

/-- Of any machine: what every step keeps, every run keeps. -/
theorem run_induct_of (M : Host.Core) {P : M.State → Prop}
    (hstep : ∀ s t, P s → M.step s = .next t → P t) (n : Nat) (s t : M.State) (hs : P s)
    (h : M.run n s = .next t) : P t := by
  induction n generalizing s with
  | zero =>
    cases h
    exact hs
  | succ n ih =>
    rw [Host.Core.run] at h
    cases hu : M.step s with
    | next u => rw [hu] at h; exact ih u (hstep s u hs hu) h
    | fault r => rw [hu] at h; cases h
    | refused r => rw [hu] at h; cases h

/-- Of any machine: a run whose first step goes on. -/
theorem run_succ_of (M : Host.Core) {s t : M.State} (h : M.step s = .next t) (n : Nat) :
    M.run (n + 1) s = M.run n t := by
  rw [Host.Core.run, h]

/-- Of any machine: a run that goes on from where another one stopped. -/
theorem run_add_of (M : Host.Core) {m : Nat} {s t : M.State} (h : M.run m s = .next t) (n : Nat) :
    M.run (m + n) s = M.run n t := by
  induction m generalizing s with
  | zero =>
    cases h
    rw [Nat.zero_add]
  | succ m ih =>
    rw [Nat.add_right_comm]
    rw [Host.Core.run] at h ⊢
    cases hu : M.step s with
    | next u => rw [hu] at h; exact ih h
    | fault r => rw [hu] at h; cases h
    | refused r => rw [hu] at h; cases h

/-- A run that goes on from where another one stopped. -/
theorem run_add {m : Nat} {s t : State} (h : core.run m s = .next t) (n : Nat) :
    core.run (m + n) s = core.run n t :=
  run_add_of core h n

/-- A run whose first step goes on. -/
theorem run_succ {s t : State} (h : step s = .next t) (n : Nat) : core.run (n + 1) s = core.run n t :=
  run_succ_of core h n

/-- What holds in a state and is kept by every step holds after every run from it. -/
theorem run_induct {P : State → Prop} (hstep : ∀ s t, P s → step s = .next t → P t) (n : Nat)
    {s t : State} (hs : P s) (h : core.run n s = .next t) : P t :=
  run_induct_of core hstep n s t hs h

end Sys2Proof.Machine
end

