-- ==== Sys2Proof/Tests/Slice0.lean ====
section
/-! SUPPORT. The model's own tests. Expected results come from spec/: the encodings of 30_encoding R110
and the vectors of 95_test_vectors (whose ids stand beside the tests), never from the model. At the end
stands one witness for each statement with hypotheses. -/

namespace Sys2Proof.Tests

open Sys2Proof.Machine

/-! ### Well-formedness: an ill-formed term for each check -/

/-- 43_display R250: a mode needs a column. -/
theorem test_mode_without_columns : modeWellFormed 0 32 = false := by decide

/-- 43_display R250: a mode needs a row. -/
theorem test_mode_without_rows : modeWellFormed 64 0 = false := by decide

/-- 00_scope R11: MEM_SIZE >= 1. -/
theorem test_params_without_memory : { Params.default with memSize := 0 }.wellFormed = false := by
  decide

/-- 00_scope R11: FB_W >= 1. -/
theorem test_params_without_columns : { Params.default with fbWidth := 0 }.wellFormed = false := by
  decide

/-- 00_scope R11: FB_H >= 1. -/
theorem test_params_without_rows : { Params.default with fbHeight := 0 }.wellFormed = false := by
  decide

/-- 00_scope R11: INSTR_PERIOD > 0. -/
theorem test_params_without_instr_period :
    { Params.default with instrPeriod := 0 }.wellFormed = false := by decide

/-- 00_scope R11: TIMER_PERIOD > 0. -/
theorem test_params_without_timer_period :
    { Params.default with timerPeriod := 0 }.wellFormed = false := by decide

/-- The spec's defaults meet the constraints. -/
theorem test_default_params : Params.default.wellFormed = true := by decide

/-! ### Decoding: a word for each constructor, written out from 30_encoding R101 and R110 -/

/-- Family 0. -/
theorem test_decode_family0 : decodeWord 0b0000000011100000 = .ok .cls ∧
    decodeWord 0b0000000011101110 = .ok .ret := by decide

/-- Jumps and calls: F, then nnn. -/
theorem test_decode_transfers : decodeWord 0b0001001000110100 = .ok (.jp 0x234) ∧
    decodeWord 0b0010001000010000 = .ok (.call 0x210) ∧
    decodeWord 0b1011001100000000 = .ok (.callV0 0x300) := by decide

/-- Skips: F, x, kk or F, x, y, n. -/
theorem test_decode_skips : decodeWord 0b0011001101000010 = .ok (.seImm 3 0x42) ∧
    decodeWord 0b0100001101000010 = .ok (.sneImm 3 0x42) ∧
    decodeWord 0b0101000100101111 = .ok (.seReg 1 2 0xF) ∧
    decodeWord 0b1001000100100101 = .ok (.sneReg 1 2 5) := by decide

/-- Loads and adds of immediates, and the random byte: F, x, kk; LD I: F, nnn. -/
theorem test_decode_immediates : decodeWord 0b0110101001111011 = .ok (.ldImm 0xA 0x7B) ∧
    decodeWord 0b0111000000010000 = .ok (.addImm 0 0x10) ∧
    decodeWord 0b1010001100000000 = .ok (.ldI 0x300) ∧
    decodeWord 0b1100000100001111 = .ok (.rnd 1 0x0F) := by decide

/-- Family 8: F, x, y, then the sub-discriminant. -/
theorem test_decode_family8 : decodeWord 0b1000000100100000 = .ok (.ldReg 1 2) ∧
    decodeWord 0b1000000100100001 = .ok (.orReg 1 2) ∧
    decodeWord 0b1000000100100010 = .ok (.andReg 1 2) ∧
    decodeWord 0b1000000100100011 = .ok (.xorReg 1 2) ∧
    decodeWord 0b1000000100100100 = .ok (.addReg 1 2) ∧
    decodeWord 0b1000000100100101 = .ok (.subReg 1 2) ∧
    decodeWord 0b1000000100100110 = .ok (.shr 1 2) ∧
    decodeWord 0b1000000100100111 = .ok (.subnReg 1 2) ∧
    decodeWord 0b1000000100101110 = .ok (.shl 1 2) := by decide

/-- DRW: F, x, y, n. -/
theorem test_decode_draw : decodeWord 0b1101000100100011 = .ok (.drw 1 2 3) := by decide

/-- Family E: F, x, then the low byte. -/
theorem test_decode_familyE : decodeWord 0b1110010110011110 = .ok (.skp 5) ∧
    decodeWord 0b1110010110100001 = .ok (.sknp 5) := by decide

/-- Family F: F, x, then the low byte (30_encoding R108). -/
theorem test_decode_familyF : decodeWord 0b1111001100000111 = .ok (.ldVxDt 3) ∧
    decodeWord 0b1111001000001010 = .ok (.ldVxK 2) ∧
    decodeWord 0b1111001100010101 = .ok (.ldDtVx 3) ∧
    decodeWord 0b1111001100011000 = .ok (.ldStVx 3) ∧
    decodeWord 0b1111000100011110 = .ok (.addI 1) ∧
    decodeWord 0b1111000100101001 = .ok (.ldF 1) ∧
    decodeWord 0b1111101000110011 = .ok (.ldB 0xA) ∧
    decodeWord 0b1111000101010101 = .ok (.storeRegs 1) ∧
    decodeWord 0b1111001001100101 = .ok (.loadRegs 2) := by decide

/-- Illegal words, one of each family, refused by name (30_encoding R112; T0-6, T0-8, T8-30, TE-6,
TF-26), and bytes that are too few. -/
theorem test_decode_illegal : decodeWord 0x0000 = .error .family0 ∧
    decodeWord 0x00E1 = .error .family0 ∧ decodeWord 0x800F = .error .family8 ∧
    decodeWord 0xE09F = .error .familyE ∧ decodeWord 0xF017 = .error .familyF ∧
    decodeBytes [0x00] = .error .truncated := by decide

/-- The encoder on words of 95_test_vectors. -/
theorem test_encode : encode (.jp 0x234) = 0x1234 ∧ encode (.seReg 1 2 0xF) = 0x512F ∧
    encode (.shl 1 2) = 0x812E ∧ encode (.drw 1 2 2) = 0xD122 ∧ encode (.ldB 0xA) = 0xFA33 ∧
    encodeBytes (.jp 0x234) = [0x12, 0x34] := by decide

/-- The host's numbering of a table word: the high byte is the first in memory (20_memory R75). -/
theorem test_table_word : decodeTableWord 16 0x6A7B = some (.ldImm 0xA 0x7B) ∧
    decodeTableWord 16 0x0000 = none := by decide

/-! ### One step on a small state -/

/-- Reset with the word `w` at 0x0300, pc there, and a cycle due. -/
def wordAt (w : Word) : State :=
  { State.reset with pc := 0x0300, acc := 1, mem := Memory.ofBytes 0x0300 [highByte w, lowByte w] }

/-- `s` with one register set. -/
def withReg (s : State) (r : Reg) (v : Byte) : State := s.setReg r v

/-- `s` with bytes from an address on, written as the loader writes them. -/
def withBytes (s : State) (a : Nat) (bytes : List Byte) : State := loadBytes a bytes s

/-- The state after one step. -/
def after (s : State) : State :=
  match step s with
  | .next t => t
  | _ => s

/-- W3, T0-1: one lit pixel goes out and the grid is marked changed. -/
theorem test_cls : (after { wordAt 0x00E0 with
      fb := ⟨2, 1, [true, false], false⟩ }).fb = ⟨2, 1, [false, false], true⟩ := by decide

/-- T0-3: RET pops, resumes two after the call, and keeps the slot. -/
theorem test_ret : (fun t : State => (t.pc, t.sp, t.stack[1])) (after { wordAt 0x00EE with
      sp := 2, stack := (Vector.replicate 16 0).set 1 0x0456 }) = (0x0458, 1, 0x0456) := by decide

/-- T0-4: RET on the empty stack faults at its own address. -/
theorem test_ret_underflow : (fun t : State => (t.latch, t.pc, t.reports)) (after (wordAt 0x00EE)) =
    (some .stackUnderflow, 0x0300, [.fault .stackUnderflow 0x0300 0x00EE]) := by decide

/-- T1-1: a jump to 0 wraps through 0xFFFE. -/
theorem test_jp_zero : (after (wordAt 0x1000)).pc = 0x0000 := by decide

/-- T1-2: an odd target is legal. -/
theorem test_jp_odd : (after (wordAt 0x1301)).pc = 0x0301 := by decide

/-- T2-2: the sixteenth call. -/
theorem test_call : (fun t : State => (t.pc, t.sp, t.stack[15])) (after { wordAt 0x2400 with
      sp := 15 }) = (0x0400, 16, 0x0300) := by decide

/-- T2-3: the seventeenth call overflows and does not jump. -/
theorem test_call_overflow : (fun t : State => (t.latch, t.pc, t.sp)) (after { wordAt 0x2400 with
      sp := 16 }) = (some .stackOverflow, 0x0300, 16) := by decide

/-- TB-3: the target of Bnnn is not masked to 12 bits, and the call pushes. -/
theorem test_callV0 : (fun t : State => (t.pc, t.sp, t.stack[0]))
    (after (withReg (wordAt 0xBFFF) 0 0xFF)) = (0x10FE, 1, 0x0300) := by decide

/-- TB-4: Bnnn overflows like a call. -/
theorem test_callV0_overflow : (fun t : State => (t.latch, t.pc)) (after { wordAt 0xB300 with
      sp := 16 }) = (some .stackOverflow, 0x0300) := by decide

/-- T3-1: SE Vx, kk taken. -/
theorem test_seImm : (after (withReg (wordAt 0x3342) 3 0x42)).pc = 0x0304 := by decide

/-- T3-2: SE Vx, kk not taken. -/
theorem test_seImm_not : (after (withReg (wordAt 0x3343) 3 0x42)).pc = 0x0302 := by decide

/-- T4-1: SNE Vx, kk not taken. -/
theorem test_sneImm_not : (after (withReg (wordAt 0x4342) 3 0x42)).pc = 0x0302 := by decide

/-- T4-2: SNE Vx, kk taken. -/
theorem test_sneImm : (after (withReg (wordAt 0x4300) 3 0x42)).pc = 0x0304 := by decide

/-- T5-2: SE Vx, Vy taken, n ignored. -/
theorem test_seReg : (after (withReg (withReg (wordAt 0x512F) 1 7) 2 7)).pc = 0x0304 := by decide

/-- T5-3: SE Vx, Vy not taken. -/
theorem test_seReg_not : (after (withReg (withReg (wordAt 0x5120) 1 7) 2 8)).pc = 0x0302 := by
  decide

/-- T9-1: SNE Vx, Vy taken. -/
theorem test_sneReg : (after (withReg (withReg (wordAt 0x9120) 1 7) 2 8)).pc = 0x0304 := by decide

/-- T9-2: SNE Vx, Vy not taken, n ignored. -/
theorem test_sneReg_not : (after (withReg (withReg (wordAt 0x9125) 1 7) 2 7)).pc = 0x0302 := by
  decide

/-- T6-1. -/
theorem test_ldImm : (after (wordAt 0x6A7B)).reg 0xA = 0x7B := by decide

/-- T7-2: the sum wraps and VF stays. -/
theorem test_addImm : (fun t : State => (t.reg 5, t.reg 0xF))
    (after (withReg (withReg (wordAt 0x7501) 5 0xFF) 0xF 9)) = (0x00, 9) := by decide

/-- T8-1. -/
theorem test_ldReg : (after (withReg (wordAt 0x8120) 2 0x33)).reg 1 = 0x33 := by decide

/-- T8-2: VF stays. -/
theorem test_orReg : (fun t : State => (t.reg 1, t.reg 0xF))
    (after (withReg (withReg (withReg (wordAt 0x8121) 1 0xF0) 2 0x0F) 0xF 1)) = (0xFF, 1) := by
  decide

/-- T8-3. -/
theorem test_andReg : (after (withReg (withReg (wordAt 0x8122) 1 0xF0) 2 0x3C)).reg 1 = 0x30 := by
  decide

/-- T8-4. -/
theorem test_xorReg : (after (withReg (withReg (wordAt 0x8123) 1 0xF0) 2 0x3C)).reg 1 = 0xCC := by
  decide

/-- W6. -/
theorem test_addReg : (fun t : State => (t.reg 1, t.reg 0xF))
    (after (withReg (withReg (wordAt 0x8124) 1 0xFA) 2 0x0A)) = (0x04, 1) := by decide

/-- T8-10: with x = F the carry survives. -/
theorem test_addReg_flag : (after (withReg (withReg (wordAt 0x8F14) 0xF 0xF0) 1 0x20)).reg 0xF = 1 := by
  decide

/-- W8. -/
theorem test_subReg : (fun t : State => (t.reg 1, t.reg 0xF))
    (after (withReg (withReg (wordAt 0x8125) 1 0x05) 2 0x0A)) = (0xFB, 0) := by decide

/-- T8-13: equal operands give no flag. -/
theorem test_subReg_equal : (fun t : State => (t.reg 1, t.reg 0xF))
    (after (withReg (withReg (wordAt 0x8125) 1 0x07) 2 0x07)) = (0x00, 0) := by decide

/-- T8-17: y is ignored. -/
theorem test_shr : (fun t : State => (t.reg 1, t.reg 0xF, t.reg 2))
    (after (withReg (withReg (wordAt 0x8126) 1 0xFA) 2 0xFF)) = (0x7D, 0, 0xFF) := by decide

/-- T8-20: with x = F the flag is what is shifted. -/
theorem test_shr_flag : (after (withReg (wordAt 0x8F06) 0xF 0xFF)).reg 0xF = 0x00 := by decide

/-- T8-21. -/
theorem test_subnReg : (fun t : State => (t.reg 1, t.reg 0xF))
    (after (withReg (withReg (wordAt 0x8127) 1 0x05) 2 0x0A)) = (0x05, 1) := by decide

/-- T8-24: with x = F the flag survives. -/
theorem test_subnReg_flag : (after (withReg (withReg (wordAt 0x8F17) 0xF 0x05) 1 0x03)).reg 0xF = 0 := by
  decide

/-- T8-27: y is ignored. -/
theorem test_shl : (fun t : State => (t.reg 1, t.reg 0xF, t.reg 2))
    (after (withReg (withReg (wordAt 0x812E) 1 0x80) 2 0x01)) = (0x00, 1, 0x01) := by decide

/-- T8-28: with x = F the flag is what is shifted. -/
theorem test_shl_flag : (after (withReg (wordAt 0x8F0E) 0xF 0x80)).reg 0xF = 0x02 := by decide

/-- TA-1. -/
theorem test_ldI : (after { wordAt 0xA300 with index := 0xFFFF }).index = 0x0300 := by decide

/-- TC-2: the mask 0 gives 0 for every byte drawn. -/
theorem test_rnd_zero_mask : (after (withReg (wordAt 0xC100) 1 0x55)).reg 1 = 0x00 := by
  have h : (after (withReg (wordAt 0xC100) 1 0x55)).reg 1 = Config.randomByte 0 &&& 0x00 := rfl
  rw [h]; exact BitVec.and_zero

/-- TD-3: four pixels, wrapped horizontally. -/
theorem test_drw_wrap : (fun t : State =>
      ((List.range 64).filter fun x => t.fb.pixel x 0, t.reg 0xF))
    (after (withReg (withBytes { wordAt 0xD121 with index := 0x0310 } 0x0310 [0xF0]) 1 0x3E)) =
    ([0, 1, 62, 63], 0) := by decide

/-- TD-10: in a narrow mode one draw turns a pixel on and off again, which is a collision. -/
theorem test_drw_collision : (fun t : State => (t.fb, t.reg 0xF))
    (after (withBytes { wordAt 0xD011 with index := 0x0310, fb := Framebuffer.blank 4 2 }
      0x0310 [0x88])) = (Framebuffer.blank 4 2, 1) := by decide

/-- TE-1, TE-2: the free answer decides. -/
theorem test_skp : (after (withReg (wordAt 0xE59E) 5 0x0A)).pc =
    (if Config.keyPressed 0 0x0A then (0x0302 : Word) else 0x0300) + 2 := rfl

/-- TE-3, TE-4: the free answer decides. -/
theorem test_sknp : (after (withReg (wordAt 0xE5A1) 5 0x0A)).pc =
    (if !Config.keyPressed 0 0x0A then (0x0302 : Word) else 0x0300) + 2 := rfl

/-- TF-1. -/
theorem test_ldVxDt : (after { wordAt 0xF307 with delayTimer := 0x3C }).reg 3 = 0x3C := by decide

/-- TF-3, TF-4: no key runs the instruction again, key k is stored. -/
theorem test_ldVxK : execLdVxK 2 (wordAt 0xF20A) =
      match (Config.keyWaitPoll 0).filter fun k => decide (k.toNat < 16) with
    | none => .next { (wordAt 0xF20A).drawn with pc := 0x02FE }
    | some k => .next ((wordAt 0xF20A).drawn.setReg 2 k) := rfl

/-- TF-7. -/
theorem test_ldDtVx : (after (withReg { wordAt 0xF315 with acc := 2 } 3 0x3C)).delayTimer = 0x3C := by
  decide

/-- TF-8. -/
theorem test_ldStVx : (after (withReg { wordAt 0xF318 with acc := 2 } 3 0x05)).soundTimer = 0x05 := by
  decide

/-- TF-10: I wraps and VF stays. -/
theorem test_addI : (fun t : State => (t.index, t.reg 0xF))
    (after (withReg { wordAt 0xF11E with index := 0xFFFF } 1 0x01)) = (0x0000, 0) := by decide

/-- TF-13: the low nibble alone selects the glyph. -/
theorem test_ldF : (after (withReg (wordAt 0xF129) 1 0x1A)).index = 0x0032 := by decide

/-- TF-16. -/
theorem test_ldB : (fun t : State => (t.byteAt 0x310, t.byteAt 0x311, t.byteAt 0x312))
    (after (withReg { wordAt 0xF133 with index := 0x0310 } 1 0xFF)) = (2, 5, 5) := by decide

/-- TF-19: a byte out of range is reported and skipped. -/
theorem test_ldB_edge : (fun t : State => (t.byteAt 0xFFE, t.byteAt 0xFFF, t.reports, t.latch))
    (after (withReg { wordAt 0xF133 with index := 0x0FFE } 1 0x7B)) =
    (1, 2, [.outOfBoundsWrite 4096 0x03], none) := by decide

/-- TF-20. -/
theorem test_storeRegs : (fun t : State => (t.byteAt 0x400, t.byteAt 0x401, t.byteAt 0x402, t.index))
    (after (withReg (withReg (withReg { wordAt 0xF155 with index := 0x0400 } 0 1) 1 2) 2 9)) =
    (1, 2, 0, 0x0400) := by decide

/-- TF-23. -/
theorem test_loadRegs : (fun t : State => (t.reg 0, t.reg 1, t.reg 2, t.reg 3, t.index))
    (after (withReg (withBytes { wordAt 0xF265 with index := 0x0310 } 0x0310 [1, 2, 3]) 3 0x77)) =
    (1, 2, 3, 0x77, 0x0310) := by decide

/-- TF-25: a byte out of range loads as 0 with a report. -/
theorem test_loadRegs_edge : (fun t : State => (t.reg 0, t.reg 1, t.reports))
    (after (withBytes { wordAt 0xF165 with index := 0x0FFF } 0x0FFF [0x42])) =
    (0x42, 0x00, [.outOfBoundsRead 4096]) := by decide

/-! ### Cycles, ticks and timers -/

/-- T0-6: an illegal word is latched and reported with pc at it. -/
theorem test_illegal : (fun t : State => (t.latch, t.pc, t.reports)) (after (wordAt 0x0000)) =
    (some .unknownOpcode, 0x0300, [.fault .unknownOpcode 0x0300 0x0000]) := by decide

/-- T1-4: a fetch across the end of memory reads 0 there, with a report. -/
theorem test_fetch_edge : (fun t : State => (t.pc, t.reports))
    (after (withBytes { wordAt 0x0000 with pc := 0x0FFF } 0x0FFF [0x61])) =
    (0x1001, [.outOfBoundsRead 4096]) := by decide

/-- TT-2: one decrement. -/
theorem test_timer_decrement : (fun t : State => (t.delayTimer, t.soundTimer))
    (timerDecrement { State.reset with delayTimer := 1, soundTimer := 0xFF }) = (0, 0xFE) := by decide

/-- A tick of one step's result, for the tests of ticks. -/
def ticked (dt : Nat) (s : State) : State :=
  match tick dt s with
  | .next t => t
  | _ => s

/-- TT-3 with a unit of 1/10: three cycles fit. -/
theorem test_tick_count : (fun t : State => (t.acc, t.lastTickCount))
    (ticked 27 { wordAt 0x1300 with
      acc := 5, params := { Params.default with instrPeriod := 10, timerPeriod := 1000 } }) =
    (2, 3) := by decide

/-- TT-9: the tick stops at the fault and keeps the unspent time. -/
theorem test_tick_fault : (fun t : State => (t.acc, t.lastTickCount, t.reports.length))
    (ticked 5 { wordAt 0x0000 with acc := 0 }) = (4, 1, 1) := by decide

/-- TT-7: the timers freeze once a fault is latched. -/
theorem test_tick_frozen : (fun t : State => (t.delayTimer, t.lastTickCount, t.tacc))
    (ticked 600 { wordAt 0x0000 with latch := some .unknownOpcode, delayTimer := 5 }) =
    (5, 0, 600) := by decide

/-- P6, the end of its first tick: ten cycles, then one decrement, which only the tick's end shows. -/
theorem test_timers_wait : (fun t : State => (t.delayTimer, t.lastTickCount))
    (ticked 10 { wordAt 0x1300 with acc := 0, delayTimer := 3 }) = (2, 10) := by decide

/-- 60_exceptions R347: the step of a cycle runs no decrement, though one is due. -/
theorem test_cycle_step : (fun t : State => (t.reg 0xA, t.delayTimer, t.tacc, t.lastTickCount))
    (after { wordAt 0x6A7B with tacc := 10, delayTimer := 3 }) = (0x7B, 3, 10, 0) := by decide

/-- 40_cycle R147, R152: a timer step is one decrement, and the last one ends the tick. -/
theorem test_timer_step : (fun t : State => (t.pc, t.delayTimer, t.tacc, t.tickCount, t.lastTickCount))
    (after { wordAt 0x6A7B with acc := 0, tacc := 25, delayTimer := 3, tickCount := 4 }) =
      (0x0300, 2, 15, 4, 0) ∧
    (fun t : State => (t.delayTimer, t.tacc, t.tickCount, t.lastTickCount))
      (after { wordAt 0x6A7B with acc := 0, tacc := 10, delayTimer := 3, tickCount := 4 }) =
      (2, 0, 0, 4) := by decide

/-- 40_cycle R147: with nothing due the step opens a tick, and runs nothing. -/
theorem test_time_step : (fun t : State => (t.pc, t.delayTimer, t.reg 0xA, t.latch, t.timeDraws))
    (after { wordAt 0x6A7B with acc := 0, delayTimer := 3 }) = (0x0300, 3, 0, none, 1) := by decide

/-- The host's placing of an instruction makes the next step run it. -/
theorem test_withFetchWord : (after (State.reset.withFetchWord 16 0x6A7B)).reg 0xA = 0x7B := by decide

/-! ### Parameters and the host's operations -/

/-- FLAG is a parameter (00_scope R10): with FLAG = 3 the carry goes to V3 and VF stays. -/
theorem test_flag_parameter : (fun t : State => (t.reg 1, t.reg 3, t.reg 0xF))
    (after (withReg (withReg { wordAt 0x8124 with params := { Params.default with flag := 3 } }
      1 0xFF) 2 0x02)) = (0x01, 1, 0) := by decide

/-- NKEYS is a parameter (00_scope R10): with no key there is no answer but none. -/
theorem test_nkeys_parameter :
    { State.reset with params := { Params.default with nkeys := 0 } }.keyWaitPoll = none := by
  unfold State.keyWaitPoll
  cases Config.keyWaitPoll _ <;> simp [Option.filter]

/-- 43_display R259: consuming answers the grid and clears the changed flag alone. -/
theorem test_consume : consume { State.reset with fb := ⟨2, 1, [true, false], true⟩ } =
    (⟨2, 1, [true, false]⟩, { State.reset with fb := ⟨2, 1, [true, false], false⟩ }) := rfl

/-- 70_reset_and_hazards R380: a reset constructs anew from the image, here one byte long, and revives
the machine; the counts of draws go on (log entry 16). -/
theorem test_reset : hostOp (.reset [0x60]) { wordAt 0x00E0 with
      closed := true, sp := 3, inputDraws := 4, timeDraws := 2 } =
    some (.next { State.reset with mem := [(0, 0x60)], inputDraws := 4, timeDraws := 2 }) := rfl

/-- 10_state R40: the telemetry collaborator reads ST. -/
theorem test_telemetry : (telemetryOf { State.reset with soundTimer := 5 }).soundTimer = 5 := rfl

/-- 20_memory R73, R89: an image across the end of memory lands in part, the rest reported. -/
theorem test_load_edge : (fun t : State => (t.byteAt 0xFFF, t.reports))
      (withBytes State.reset 0xFFF [0x42, 0x43]) = (0x42, [.outOfBoundsWrite 4096 0x43]) ∧
    loadSuccess 0xFFF [0x42, 0x43] State.reset = [true, false] := by decide

/-! ### Witnesses: for each statement with hypotheses, a state and operands that meet them -/

/-- A legal state: the invariant's every part at reset. -/
theorem witness_legal : State.reset.params.wellFormed = true ∧ State.reset.spLegal ∧
    State.reset.fb.wf = true ∧ State.reset.memLegal ∧ State.reset.timeLegal ∧
    State.reset.reportLegal := by
  refine ⟨by decide, by unfold State.spLegal; decide, ?_, by unfold State.memLegal; decide, ?_, ?_⟩
  · exact Bool.and_eq_true_iff.2 ⟨by decide, decide_eq_true List.length_replicate⟩
  · exact fun _ _ _ => rfl
  · unfold State.reportLegal; decide

/-- `EncodeOfDecodeIsTheWord`, `OpcodeRowsPartitionTheLegalWords`: a legal word, its row selected. -/
theorem witness_legal_word : decodeWord 0x812E = .ok (.shl 1 2) ∧
    selectsRow 0x812E (opcodeRows.getD (17 : Fin 34) (0, 0)) = true := by decide

/-- `ConstructionYieldsALegalMachineOrNone`: parameters on either side of their constraints, and those of
a machine to be reset. -/
theorem witness_params : { Params.default with memSize := 0 }.wellFormed = false ∧
    { Params.default with memSize := 1 }.wellFormed = true ∧
    State.reset.params.wellFormed = true := by decide

/-- `StepRunsTheDecodedInstruction`: an active machine with a cycle due. -/
theorem witness_step : (wordAt 0x6A7B).active = true ∧ (wordAt 0x6A7B).cycleDue = true ∧
    decodeWord (wordAt 0x6A7B).fetchedWord = .ok (.ldImm 0xA 0x7B) := by decide

/-- `StepsWithoutACycleDecrementOnceOrOpenATick`: no cycle due, with the last decrement of a tick due,
with a further one, and with none. -/
theorem witness_no_cycle : { State.reset with tacc := 10 }.active = true ∧
    { State.reset with tacc := 10 }.cycleDue = false ∧
    { State.reset with tacc := 10 }.decrementDue = true ∧
    { State.reset with tacc := 20 }.cycleDue = false ∧
    { State.reset with tacc := 20 }.decrementDue = true ∧
    { State.reset with tacc := 9 }.active = true ∧ { State.reset with tacc := 9 }.cycleDue = false ∧
    { State.reset with tacc := 9 }.decrementDue = false := by decide

/-- `TimersWaitForTheEndOfTheTick`: a step after which the tick goes on with a cycle. -/
theorem witness_tick_goes_on : { wordAt 0x6A7B with acc := 2 }.active = true ∧
    { wordAt 0x6A7B with acc := 2 }.cycleDue = true ∧
    (∃ t, step { wordAt 0x6A7B with acc := 2 } = .next t) ∧
    (after { wordAt 0x6A7B with acc := 2 }).cycleDue = true ∧
    (after { wordAt 0x6A7B with acc := 2 }).latch = none ∧
    ∀ x, decodeWord { wordAt 0x6A7B with acc := 2 }.fetchedWord ≠ .ok (.ldDtVx x) ∧
      decodeWord { wordAt 0x6A7B with acc := 2 }.fetchedWord ≠ .ok (.ldStVx x) := by
  refine ⟨by decide, by decide, ⟨_, rfl⟩, by decide, by decide, by decide⟩

/-- `TimersWaitForTheEndOfTheTick`: a step after which a timer decrement is due, and one after which the
tick is over. -/
theorem witness_last_cycle : (after { wordAt 0x6A7B with tacc := 10 }).cycleDue = false ∧
    (after { wordAt 0x6A7B with tacc := 10 }).decrementDue = true ∧
    (after { wordAt 0x6A7B with tacc := 10 }).latch = none ∧
    (after (wordAt 0x6A7B)).cycleDue = false ∧ (after (wordAt 0x6A7B)).decrementDue = false := by decide

/-- `IllegalWordLatchesUnknownOpcode`. -/
theorem witness_illegal_word : (wordAt 0x0000).active = true ∧ (wordAt 0x0000).cycleDue = true ∧
    decodeWord (wordAt 0x0000).fetchedWord = .error .family0 := by decide

/-- `NextPcIsTheTablesEntry`, `OnlyCallsAndReturnsFaultAndPrecisely`: a next state without a fault, and
one for each fault. -/
theorem witness_exec_outcomes : State.reset.latch = none ∧
    (∃ t, exec (.jp 0x300) State.reset = .next t ∧ t.latch = none) ∧
    (∃ t, exec .ret State.reset = .next t ∧ t.latch = some .stackUnderflow) ∧
    ∃ t, exec (.call 0x300) { State.reset with sp := 16 } = .next t ∧
      t.latch = some .stackOverflow :=
  ⟨rfl, ⟨_, rfl, rfl⟩, ⟨_, rfl, rfl⟩, ⟨_, rfl, rfl⟩⟩

/-- `InactiveMachineOnlyLetsTimePass`, `LatchedFaultFreezesEveryRun`. -/
theorem witness_inactive : { State.reset with latch := some .unknownOpcode }.active = false ∧
    { State.reset with closed := true }.active = false ∧
    { State.reset with latch := some .unknownOpcode }.latch ≠ none := by decide

/-- `TickRunsAsManyCyclesAsPeriodsFit`, `TickIsARunOfSteps`: a tick of two cycles, and one that faults. -/
theorem witness_tick : { wordAt 0x1300 with acc := 0 }.active = true ∧
    0 < { wordAt 0x1300 with acc := 0 }.params.instrPeriod ∧
    0 < { wordAt 0x1300 with acc := 0 }.params.timerPeriod ∧
    { wordAt 0x1300 with acc := 0 }.params.instrPeriod ≤ { wordAt 0x1300 with acc := 0 }.acc + 2 ∧
    (∃ t, tick 2 { wordAt 0x1300 with acc := 0 } = .next t ∧ t.latch = none) ∧
    ∃ t, tick 2 { wordAt 0x0000 with acc := 0 } = .next t ∧ t.latch ≠ none := by
  refine ⟨by decide, by decide, by decide, by decide, ⟨_, rfl, by decide⟩, ⟨_, rfl, by decide⟩⟩

/-- `TickIsARunOfSteps`: a tick of timer decrements alone. -/
theorem witness_timer_tick : State.reset.params.timerPeriod ≤ { State.reset with tacc := 20 }.tacc + 0 ∧
    ∃ t, tick 0 { State.reset with tacc := 20 } = .next t ∧ t.lastTickCount = 0 ∧ t.tacc = 0 :=
  ⟨by decide, _, rfl, by decide, by decide⟩

/-- `TickWithoutCyclesOnlyCountsTimersDown`: the greatest time in which no cycle is due. -/
theorem witness_idle_tick :
    { State.reset with params := { Params.default with instrPeriod := 10 } }.active = true ∧
    { State.reset with params := { Params.default with instrPeriod := 10 } }.acc + 9 <
      { State.reset with params := { Params.default with instrPeriod := 10 } }.params.instrPeriod := by
  decide

/-- `EveryStepKeepsTheInvariant`, `StepKeepsParametersModeAndClosed`, `FaultIsReportedOnceWhenLatched`:
a step from reset, which opens a tick, and one that latches the fault of the word 0x0000. -/
theorem witness_step_from_reset : (∃ t, step State.reset = .next t) ∧
    (∃ t, step (wordAt 0x0000) = .next t) ∧ (wordAt 0x0000).latch = none ∧
    (after (wordAt 0x0000)).latch ≠ none := ⟨⟨_, rfl⟩, ⟨_, rfl⟩, by decide, by decide⟩

/-- `ReportsAreAnAppendOnlyOutput`: a step that answers a next state and one that stops. -/
theorem witness_step_outcomes : (∃ t, step (wordAt 0x00EE) = .next t) ∧
    step { wordAt 0x00EE with sp := 17 } = .fault .noStackSlot := ⟨⟨_, rfl⟩, rfl⟩

/-- The statements about which instructions write what (`OnlyTheTabledRegistersAreWritten`,
`IndexAndTimersHaveTheirOnlyWriters`, `MemoryAndStackHaveTheirOnlyWriters`,
`ControlStateIsNoInstructionsToWrite`): an instruction that is none of the writers. -/
theorem witness_no_writer : (∃ t, exec (.seImm 1 2) State.reset = .next t) ∧
    mayWriteReg 0xF (.seImm 1 2) 1 = false ∧ (∀ nnn, Instr.seImm 1 2 ≠ .ldI nnn) ∧
    (∀ x, Instr.seImm 1 2 ≠ .addI x) ∧ (∀ x, Instr.seImm 1 2 ≠ .ldF x) ∧
    (∀ x, Instr.seImm 1 2 ≠ .ldDtVx x) ∧ (∀ x, Instr.seImm 1 2 ≠ .ldStVx x) ∧
    (∀ x, Instr.seImm 1 2 ≠ .ldB x) ∧ (∀ x, Instr.seImm 1 2 ≠ .storeRegs x) ∧
    (∀ nnn, Instr.seImm 1 2 ≠ .call nnn) ∧ (∀ nnn, Instr.seImm 1 2 ≠ .callV0 nnn) ∧
    Instr.seImm 1 2 ≠ .ret ∧ Instr.seImm 1 2 ≠ .cls ∧ ∀ x y n, Instr.seImm 1 2 ≠ .drw x y n := by
  refine ⟨⟨_, rfl⟩, rfl, ?_⟩
  simp

/-- `MemoryReadsWhatWasWrittenWithinBounds`: the last address and the first beyond it. -/
theorem witness_memory : State.reset.mem.wf = true ∧ 4095 < State.reset.params.memSize ∧
    State.reset.params.memSize ≤ 4096 := by decide

/-- `FetchIsBigEndianAndBoundsChecked`: the last pc in memory and the first beyond it. -/
theorem witness_fetch : { State.reset with pc := 0x0FFF }.pc.toNat < State.reset.params.memSize ∧
    State.reset.params.memSize ≤ { State.reset with pc := 0x1000 }.pc.toNat := by decide

/-- `PopGivesBackWhatWasPushed`, `CallsPushTheirOwnAddress`, `RetResumesAtThePoppedAddress`,
`RetBeyondTheStackStops`: sp on either side of each bound. -/
theorem witness_sp : (0 : Byte).toNat = 0 ∧ 0 < (1 : Byte).toNat ∧ (15 : Byte).toNat < 16 ∧
    16 ≤ (16 : Byte).toNat ∧ (16 : Byte).toNat ≤ 16 ∧ 16 < (17 : Byte).toNat := by decide

/-- `ReturnComesBackToTheCallSite`: a call and the state it leaves. -/
theorem witness_call_return : State.reset.sp.toNat < 16 ∧ ∃ t u, exec (.call 0x210) State.reset = .next t ∧
    u = t ∧ u.stack = t.stack ∧ u.sp = t.sp ∧ u.latch = none :=
  ⟨by decide, _, _, rfl, rfl, rfl, rfl, rfl⟩

/-- `SkipsAddOneInstructionWidth`: registers equal to, and unlike, an immediate and a register. -/
theorem witness_skips : State.reset.reg 1 = 0 ∧ State.reset.reg 1 ≠ 1 ∧
    State.reset.reg 1 = State.reset.reg 2 ∧
    (withReg State.reset 1 7).reg 1 ≠ (withReg State.reset 1 7).reg 2 := by decide

/-- The draws (`DrawInvertsEachPixelOncePerHit`, `DrawFlagsEveryCollision`,
`DrawMarksChangedIffABitIsOne`): a well-formed framebuffer, its last pixel, and a draw. -/
theorem witness_draw : (Framebuffer.blank 4 2).wf = true ∧ 3 < (Framebuffer.blank 4 2).width ∧
    1 < (Framebuffer.blank 4 2).height ∧
    ∃ t, exec (.drw 0 1 1) { State.reset with fb := Framebuffer.blank 4 2 } = .next t :=
  ⟨by decide, by decide, by decide, ⟨_, rfl⟩⟩

/-- `DrawMarksChangedIffABitIsOne`: a sprite byte with a bit that is 1, and one with none. -/
theorem witness_draw_bits : spriteBit ((wordAt 0xD011).byteAt 0x0300) 0 = true ∧
    ∀ c, c < 8 → spriteBit (State.reset.byteAt 0) c = false := by decide

/-- `BcdStoresThreeDigits`, `StoreBlockWritesV0ToVx`, `LoaderPlacesTheImageAtLoadAddr`: memory in its
canonical form, addresses on either side of a block of one byte at I = 0x0310, in range. -/
theorem witness_blocks : { wordAt 0xF055 with index := 0x0310 }.mem.wf = true ∧
    (0 : Reg).toNat ≤ (0 : Reg).toNat ∧
    { wordAt 0xF055 with index := 0x0310 }.index.toNat + (0 : Reg).toNat < 4096 ∧
    0x030F < { wordAt 0xF055 with index := 0x0310 }.index.toNat ∧
    { wordAt 0xF055 with index := 0x0310 }.index.toNat + (0 : Reg).toNat < 0x0311 := by decide

/-- `HostPixelOperationsAreBoundsChecked`, `HostGridOperations`: the corner of the mode and the column
beyond it, a negative coordinate, and modes on either side of their bound. -/
theorem witness_pixels : (Framebuffer.blank 4 2).wf = true ∧
    pixelInRange 3 1 (Framebuffer.blank 4 2) = true ∧
    pixelInRange 4 1 (Framebuffer.blank 4 2) = false ∧
    pixelInRange (-1) 0 (Framebuffer.blank 4 2) = false ∧ modeWellFormed 1 1 = true := by decide

end Sys2Proof.Tests
end

/-! # Construction, and what every step keeps (00_scope)

The family `00_scope`: the machine that construction and reset yield is legal (O6, O7), and every step
keeps it legal (O19), its parameters, its mode and its closed flag (O21). -/

namespace Sys2Proof.Machine

/-! ### Construction (70_reset_and_hazards R380) -/

/-- A machine constructed from parameters within their constraints and a canonical launch image within
the capacity is legal. -/
theorem construct_inv {p : Params} {image : Memory} (hp : p.wellFormed = true)
    (hwf : image.wf = true) (hin : image.within p.memSize = true) :
    (State.construct p image).Inv where
  params := hp
  sp := by simp [State.spLegal, State.construct]
  fb := by
    simp only [Params.wellFormed, Bool.and_eq_true] at hp
    obtain ⟨⟨⟨-, hmode⟩, -⟩, -⟩ := hp
    exact blank_wf hmode
  mem := ⟨hwf, hin⟩
  time := fun _ _ _ => rfl
  report := rfl

/-- No machine is constructed without its storage or with parameters out of bounds (60_exceptions
R346). -/
theorem constructMachine_eq_none {p : Params} {reserved : Bool} (image : List Byte)
    (h : reserved = false ∨ p.wellFormed = false) : constructMachine p reserved image = none := by
  rcases h with h | h <;> simp [constructMachine, h]

/-- With both, the machine is the one of R380 whose memory is the image cut to the capacity. -/
theorem constructMachine_eq_some {p : Params} (image : List Byte) (h : p.wellFormed = true) :
    constructMachine p true image =
      some (State.construct p (Memory.ofBytes 0 (image.take p.memSize))) := by
  simp [constructMachine, h]

/-- The memory of a launch image cut to a capacity lists no address beyond it. -/
theorem within_ofBytes_take (n : Nat) (image : List Byte) :
    (Memory.ofBytes 0 (image.take n)).within n = true :=
  within_ofBytes (by rw [List.length_take]; omega)

/-- A constructed machine holds its launch image, 0x00 where the image has no byte (10_state R52). -/
theorem construct_byteAt {p : Params} (image : List Byte) {k : Nat} (hk : k < p.memSize) :
    (State.construct p (Memory.ofBytes 0 (image.take p.memSize))).byteAt k = image.getD k 0 := by
  have hget := get_ofBytes 0 (image.take p.memSize) k
  rw [Nat.zero_add] at hget
  rw [byteAt_of_lt (s := State.construct p _) hk]
  calc (Memory.ofBytes 0 (image.take p.memSize)).get k
      = (image.take p.memSize).getD k 0 := hget
    _ = image.getD k 0 := by simp [List.getD_eq_getElem?_getD, List.getElem?_take_of_lt hk]

/-- The counts of draws are no part of what makes a state legal (log entry 16). -/
theorem State.Inv.withDraws {s : State} (h : s.Inv) (i n : Nat) :
    State.Inv { s with inputDraws := i, timeDraws := n } :=
  ⟨h.params, h.sp, h.fb, h.mem, h.time, h.report⟩

/-! ### Reports that are no fault's (60_exceptions R352) -/

@[simp] theorem faultReports_append (l m : List Report) :
    faultReports (l ++ m) = faultReports l + faultReports m := by
  simp [faultReports]

@[simp] theorem faultReports_readReports (s : State) (a : Nat) :
    faultReports (readReports s a) = 0 := by
  unfold readReports
  split <;> rfl

@[simp] theorem faultReports_writeReports (s : State) (a : Nat) (v : Byte) :
    faultReports (writeReports s a v) = 0 := by
  unfold writeReports
  split <;> rfl

@[simp] theorem faultReports_storeReports (s : State) (k : Nat) :
    faultReports (storeReports s k) = 0 := by
  induction k with
  | zero => rfl
  | succ k ih => simp [storeReports, ih]

@[simp] theorem faultReports_loadReports (s : State) (k : Nat) :
    faultReports (loadReports s k) = 0 := by
  induction k with
  | zero => rfl
  | succ k ih => simp [loadReports, ih]

@[simp] theorem faultReports_spriteReports (s : State) (base n : Nat) :
    faultReports (spriteReports s base n) = 0 := by
  induction n with
  | zero => rfl
  | succ n ih => simp [spriteReports, ih]

/-- A raised fault is one more fault report (60_exceptions R341). -/
@[simp] theorem faultReports_raiseFault (k : FaultKind) (w : Word) (s : State) :
    faultReports (raiseFault k w s).reports = faultReports s.reports + 1 :=
  faultReports_append s.reports [.fault k s.pc w]

/-! ### What keeps a state legal -/

/-- What leads from `s` to `t` leaves to the host what is the host's (the parameters, the closed flag
and the mode), and a legal sp, framebuffer and memory legal. -/
structure KeepsLegality (s t : State) : Prop where
  params : t.params = s.params
  closed : t.closed = s.closed
  width : t.fb.width = s.fb.width
  height : t.fb.height = s.fb.height
  sp : s.spLegal → t.spLegal
  fb : s.fb.wf = true → t.fb.wf = true
  mem : s.memLegal → t.memLegal

/-- In addition no fault is raised: neither is one latched nor one reported. -/
structure KeepsWithoutFault (s t : State) : Prop extends KeepsLegality s t where
  latch : t.latch = s.latch
  faults : faultReports t.reports = faultReports s.reports

theorem KeepsLegality.trans {s t u : State} (h : KeepsLegality s t) (h' : KeepsLegality t u) :
    KeepsLegality s u where
  params := h'.params.trans h.params
  closed := h'.closed.trans h.closed
  width := h'.width.trans h.width
  height := h'.height.trans h.height
  sp := h'.sp ∘ h.sp
  fb := h'.fb ∘ h.fb
  mem := h'.mem ∘ h.mem

theorem KeepsWithoutFault.trans {s t u : State} (h : KeepsWithoutFault s t)
    (h' : KeepsWithoutFault t u) : KeepsWithoutFault s u where
  toKeepsLegality := h.toKeepsLegality.trans h'.toKeepsLegality
  latch := h'.latch.trans h.latch
  faults := h'.faults.trans h.faults

/-- What writes none of the fields that legality speaks of keeps it. -/
theorem keepsLegality_of_eq {s t : State} (hp : t.params = s.params) (hc : t.closed = s.closed)
    (hsp : t.sp = s.sp) (hfb : t.fb = s.fb) (hm : t.mem = s.mem) : KeepsLegality s t where
  params := hp
  closed := hc
  width := by rw [hfb]
  height := by rw [hfb]
  sp := by unfold State.spLegal; rw [hsp]; exact id
  fb := by rw [hfb]; exact id
  mem := by unfold State.memLegal; rw [hm, hp]; exact id

/-- What writes neither them nor the latch and the sink raises no fault besides. -/
theorem keepsWithoutFault_of_eq {s t : State} (hp : t.params = s.params) (hc : t.closed = s.closed)
    (hsp : t.sp = s.sp) (hfb : t.fb = s.fb) (hm : t.mem = s.mem) (hl : t.latch = s.latch)
    (hr : t.reports = s.reports) : KeepsWithoutFault s t :=
  ⟨keepsLegality_of_eq hp hc hsp hfb hm, hl, by rw [hr]⟩

/-- A raised fault writes only the latch and the reports (60_exceptions R341). -/
theorem raiseFault_keeps (k : FaultKind) (w : Word) (s : State) :
    KeepsLegality s (raiseFault k w s) := keepsLegality_of_eq rfl rfl rfl rfl rfl

/-- The fetch adds reports of accesses alone (20_memory R76). -/
theorem fetch_keeps (s : State) : KeepsWithoutFault s (fetch s).2 := by
  rw [fetch_eq]
  exact ⟨keepsLegality_of_eq rfl rfl rfl rfl rfl, rfl, by simp⟩

/-- Where no fault is raised, reports and latch go on agreeing. -/
theorem KeepsWithoutFault.reportLegal {s t : State} (h : KeepsWithoutFault s t)
    (hs : s.reportLegal) : t.reportLegal := by
  unfold State.reportLegal at *
  rw [h.faults, h.latch, hs]

/-- The first fault is latched and reported once (60_exceptions R352). -/
theorem raiseFault_reportLegal {s : State} (k : FaultKind) (w : Word) (hl : s.latch = none)
    (hs : s.reportLegal) : (raiseFault k w s).reportLegal := by
  unfold State.reportLegal at *
  rw [faultReports_raiseFault, hs, hl]
  rfl

/-! ### The instructions -/

/-- What is kept in the state that a result answers. -/
theorem keepsWithoutFault_of_next {s t u : State} (h : (Host.Outcome.next u : Result) = .next t)
    (hk : KeepsWithoutFault s u) : KeepsWithoutFault s t := by
  cases h
  exact hk

/-- Fx33 and Fx55 write memory and report accesses. -/
theorem keepsWithoutFault_of_mem {s t : State} {m : Memory} {l : List Report}
    (ht : t = { s with mem := m, reports := l }) (hm : s.memLegal → t.memLegal)
    (hl : faultReports l = faultReports s.reports) : KeepsWithoutFault s t := by
  subst ht
  exact ⟨⟨rfl, rfl, rfl, rfl, id, id, hm⟩, rfl, hl⟩

/-- A sprite draw writes pixels and reports accesses. -/
theorem drawRows_keeps (x0 y0 base n : Nat) (s : State) :
    KeepsWithoutFault s (drawRows x0 y0 base n s).1 where
  params := by rw [drawRows_frame]
  closed := by rw [drawRows_frame]
  width := (drawRows_mode x0 y0 base n s).1
  height := (drawRows_mode x0 y0 base n s).2
  sp := by rw [drawRows_frame]; exact id
  fb := drawRows_wf x0 y0 base n
  mem := by rw [drawRows_frame]; exact id
  latch := by rw [drawRows_frame]
  faults := by rw [drawRows_frame]; simp

/-- Loading a block writes registers and reports accesses. -/
theorem loadBlock_keeps (k : Nat) (s : State) : KeepsWithoutFault s (loadBlock k s) := by
  rw [loadBlock_frame]
  exact ⟨keepsLegality_of_eq rfl rfl rfl rfl rfl, rfl, by simp⟩

/-- A RET that goes on found the stack empty, or popped the address in its top slot (41_control_flow
R171). -/
theorem execRet_cases {s t : State} (h : execRet s = .next t) :
    (s.sp = 0 ∧ t = raiseFault .stackUnderflow (encode .ret) s) ∨
    (0 < s.sp.toNat ∧ s.sp.toNat ≤ 16 ∧ t = { s with pc := s.stackTop, sp := s.sp - 1 }) := by
  unfold execRet at h
  by_cases h0 : s.sp = 0
  · rw [pop_underflow h0] at h
    exact .inl ⟨h0, by simpa using h.symm⟩
  have hpos : 0 < s.sp.toNat :=
    Nat.pos_of_ne_zero fun hz => h0 (BitVec.eq_of_toNat_eq (by simpa using hz))
  by_cases h16 : s.sp.toNat ≤ 16
  · rw [pop_ok hpos h16] at h
    refine .inr ⟨hpos, h16, ?_⟩
    have hlt : s.sp.toNat - 1 < 16 := by omega
    simpa [State.stackTop, List.getD_eq_getElem?_getD, hlt] using h.symm
  · rw [pop_noSlot (by omega)] at h
    cases h

/-- When an instruction raises a fault: a call with no free slot, a return on the empty stack
(60_exceptions R342, R343). -/
def RaisesFault (k : FaultKind) (i : Instr) (s : State) : Prop :=
  (k = .stackOverflow ∧ 16 ≤ s.sp.toNat ∧ ∃ nnn, i = .call nnn ∨ i = .callV0 nnn) ∨
    (k = .stackUnderflow ∧ s.sp = 0 ∧ i = .ret)

/-- A call keeps a legal state legal, or finds no free slot and raises StackOverflow. -/
theorem callTo_keeps (t w : Word) (s : State) : KeepsWithoutFault s (callTo t w s) ∨
    (16 ≤ s.sp.toNat ∧ callTo t w s = raiseFault .stackOverflow w s) := by
  rcases callTo_eq t w s with ⟨hlt, h⟩ | h
  · left
    rw [h]
    refine ⟨⟨rfl, rfl, rfl, rfl, fun _ => ?_, id, id⟩, rfl, rfl⟩
    show (s.sp + 1).toNat ≤ 16
    bv_omega
  · exact .inr h

/-- A return keeps a legal state legal, or finds the stack empty and raises StackUnderflow. -/
theorem execRet_keeps {s t : State} (h : execRet s = .next t) : KeepsWithoutFault s t ∨
    (s.sp = 0 ∧ t = raiseFault .stackUnderflow (encode .ret) s) := by
  rcases execRet_cases h with h | ⟨hpos, hle, rfl⟩
  · exact .inr h
  · refine .inl ⟨⟨rfl, rfl, rfl, rfl, fun _ => ?_, id, id⟩, rfl, rfl⟩
    show (s.sp - 1).toNat ≤ 16
    bv_omega

/-- Everything that an instruction can do to the legality of a state: keep it without a fault, or raise
a fault and change nothing else. -/
theorem exec_cases {i : Instr} {s t : State} (h : exec i s = .next t) :
    KeepsWithoutFault s t ∨ ∃ k, RaisesFault k i s ∧ t = raiseFault k (encode i) s := by
  cases i with
  | cls =>
    exact .inl (keepsWithoutFault_of_next h ⟨⟨rfl, rfl, rfl, rfl, id, clear_wf, id⟩, rfl, rfl⟩)
  | ret =>
    rcases execRet_keeps h with hk | ⟨hempty, heq⟩
    · exact .inl hk
    · exact .inr ⟨_, .inr ⟨rfl, hempty, rfl⟩, heq⟩
  | call nnn =>
    cases h
    rcases callTo_keeps (zextAddr nnn) (encode (.call nnn)) s with hk | ⟨hfull, heq⟩
    · exact .inl hk
    · exact .inr ⟨_, .inl ⟨rfl, hfull, nnn, .inl rfl⟩, heq⟩
  | callV0 nnn =>
    cases h
    rcases callTo_keeps (s.callV0Target nnn) (encode (.callV0 nnn)) s with hk | ⟨hfull, heq⟩
    · exact .inl hk
    · exact .inr ⟨_, .inl ⟨rfl, hfull, nnn, .inr rfl⟩, heq⟩
  | drw x y n =>
    have draw := drawRows_keeps (s.reg x).toNat (s.reg y).toNat s.index.toNat n.toNat s
    exact .inl (keepsWithoutFault_of_next h
      (draw.trans (keepsWithoutFault_of_eq rfl rfl rfl rfl rfl rfl rfl)))
  | ldVxK x =>
    simp only [exec, execLdVxK] at h
    split at h <;>
      exact .inl (keepsWithoutFault_of_next h (keepsWithoutFault_of_eq rfl rfl rfl rfl rfl rfl rfl))
  | ldB x =>
    exact .inl (keepsWithoutFault_of_next h (keepsWithoutFault_of_mem (storeDigits_frame _ s)
      (fun hm => storeDigits_memLegal hm _) (by simp)))
  | storeRegs x =>
    exact .inl (keepsWithoutFault_of_next h (keepsWithoutFault_of_mem (storeBlock_frame _ s)
      (fun hm => storeBlock_memLegal hm _) (by simp)))
  | loadRegs x => exact .inl (keepsWithoutFault_of_next h (loadBlock_keeps _ s))
  | _ =>
    exact .inl (keepsWithoutFault_of_next h (keepsWithoutFault_of_eq rfl rfl rfl rfl rfl rfl rfl))

/-- Every instruction keeps what is the host's, and a legal state legal. -/
theorem exec_keeps {i : Instr} {s t : State} (h : exec i s = .next t) : KeepsLegality s t := by
  rcases exec_cases h with hk | ⟨k, -, rfl⟩
  · exact hk.toKeepsLegality
  · exact raiseFault_keeps k _ s

/-- With no fault latched before it, an instruction keeps one report for a latched fault, none without
(60_exceptions R352). -/
theorem exec_reportLegal {i : Instr} {s t : State} (h : exec i s = .next t) (hl : s.latch = none)
    (hs : s.reportLegal) : t.reportLegal := by
  rcases exec_cases h with hk | ⟨k, -, rfl⟩
  · exact hk.reportLegal hs
  · exact raiseFault_reportLegal k _ hl hs

/-! ### The steps -/

/-- After the last line of a tick no cycle is counted, and before it something is due (40_cycle R147). -/
theorem finishTickIfOver_timeLegal (s : State) : (finishTickIfOver s).timeLegal := by
  intro ha hc hd
  have hover : s.tickOver = true := tickOver_iff.2 (.inr ⟨hc, hd⟩)
  simp [finishTickIfOver, hover]

/-- The state that a cycle decodes in: its period spent and the reports of its fetch added. -/
theorem fetch_spendPeriod_keeps {s u : State} {w : Word} (h : fetch (spendPeriod s) = (w, u)) :
    KeepsWithoutFault s u := by
  have hu : u = (fetch (spendPeriod s)).2 := by rw [h]
  have spend : KeepsWithoutFault s (spendPeriod s) :=
    keepsWithoutFault_of_eq rfl rfl rfl rfl rfl rfl rfl
  rw [hu]
  exact spend.trans (fetch_keeps (spendPeriod s))

/-- Every step keeps what is the host's, and a legal sp, framebuffer and memory legal. -/
theorem step_keeps {s t : State} (h : step s = .next t) : KeepsLegality s t := by
  rcases step_cases h with ⟨-, rfl⟩ | ⟨-, -, -, rfl⟩ | ⟨-, -, -, rfl⟩ | ⟨-, -, w, u, hf, hd⟩
  case inr.inr.inr =>
    have hu := (fetch_spendPeriod_keeps hf).toKeepsLegality
    rcases hd with ⟨r, -, rfl⟩ | ⟨i, v, -, he, rfl⟩
    · exact hu.trans (keepsLegality_of_eq rfl rfl rfl rfl rfl)
    · exact (hu.trans (exec_keeps he)).trans (keepsLegality_of_eq rfl rfl rfl rfl rfl)
  all_goals exact keepsLegality_of_eq rfl rfl rfl rfl rfl

/-- After every step no cycle is counted between two ticks. -/
theorem step_timeLegal {s t : State} (h : step s = .next t) : t.timeLegal := by
  rcases step_cases h with ⟨-, rfl⟩ | ⟨-, -, -, rfl⟩ | ⟨-, -, -, rfl⟩ |
    ⟨-, -, w, u, -, ⟨r, -, rfl⟩ | ⟨i, v, -, -, rfl⟩⟩
  · exact fun _ _ _ => rfl
  · exact finishTickIfOver_timeLegal (openTick (Config.tickTime s.timeDraws) s)
  all_goals exact finishTickIfOver_timeLegal _

/-- A step reports a fault exactly if it latches one (60_exceptions R352). -/
theorem step_reportLegal {s t : State} (h : step s = .next t) (hs : s.reportLegal) :
    t.reportLegal := by
  rcases step_cases h with ⟨-, rfl⟩ | ⟨-, -, -, rfl⟩ | ⟨-, -, -, rfl⟩ | ⟨ha, -, w, u, hf, hd⟩
  case inr.inr.inr =>
    have hu := fetch_spendPeriod_keeps hf
    have hlatch : u.latch = none := hu.latch.trans (active_iff.1 ha).1
    have hreport : u.reportLegal := hu.reportLegal hs
    rcases hd with ⟨r, -, rfl⟩ | ⟨i, v, -, he, rfl⟩
    · exact raiseFault_reportLegal _ w hlatch hreport
    · have hv : v.reportLegal := exec_reportLegal he hlatch hreport
      exact hv
  all_goals exact hs

/-! ### The obligations -/

/-- Settles O6: the reset state is a construction from the default parameters, and legal as one. -/
theorem legalAtReset : Obligations.LegalAtReset :=
  ⟨rfl, construct_inv rfl rfl rfl⟩

/-- Settles O7: construction either fails or answers `State.construct`, which is legal and reads as its
image. -/
theorem constructionYieldsALegalMachineOrNone :
    Obligations.ConstructionYieldsALegalMachineOrNone := by
  have legal : ∀ (p : Params) (image : List Byte), p.wellFormed = true →
      (State.construct p (Memory.ofBytes 0 (image.take p.memSize))).Inv :=
    fun p image hp => construct_inv hp (wf_ofBytes 0 _) (within_ofBytes_take p.memSize image)
  refine ⟨fun p image => constructMachine_eq_none image (.inl rfl),
    fun p r image hp => constructMachine_eq_none image (.inr hp), fun p image hp => ?_,
    fun s image hp => ?_⟩
  · exact ⟨_, constructMachine_eq_some image hp, legal p image hp, rfl, rfl,
      fun k hk => construct_byteAt image hk⟩
  · have hmade := constructMachine_eq_some image hp
    refine ⟨_, _, hmade, ?_, rfl, (legal s.params image hp).withDraws s.inputDraws s.timeDraws⟩
    rw [hostOp, hmade]
    rfl

/-- Settles O21: the first four parts of `step_keeps`. -/
theorem stepKeepsParametersModeAndClosed : Obligations.StepKeepsParametersModeAndClosed := by
  intro s t h
  have hk := step_keeps h
  exact ⟨hk.params, hk.width, hk.height, hk.closed⟩

/-- Settles O19: sp, the framebuffer and memory by `step_keeps`, the count of cycles because every step
ends with the last line of its tick if the tick is over, the report because a cycle runs only with no
fault latched. -/
theorem everyStepKeepsTheInvariant : Obligations.EveryStepKeepsTheInvariant := by
  intro s t hs h
  have hk := step_keeps h
  exact {
    params := hk.params ▸ hs.params
    sp := hk.sp hs.sp
    fb := hk.fb hs.fb
    mem := hk.mem hs.mem
    time := step_timeLegal h
    report := step_reportLegal h hs.report }

end Sys2Proof.Machine

/-! # The state and who writes it (10_state)

The family `10_state`: a legal machine never stops (O20), the sink is an output that no step reads
(O23), what an instruction leaves unchanged (O25, O26, O28), and the stack unit (O30). -/

namespace Sys2Proof.Machine

/-! ### A legal machine goes on (10_state R37) -/

/-- With at most 16 occupied slots a RET pops one, or raises StackUnderflow; it never stops. -/
theorem execRet_next {s : State} (h : s.spLegal) : ∃ t, execRet s = .next t := by
  unfold execRet
  by_cases h0 : s.sp = 0
  · rw [pop_underflow h0]
    exact ⟨_, rfl⟩
  · have hpos : 0 < s.sp.toNat := by bv_omega
    rw [pop_ok hpos h]
    exact ⟨_, rfl⟩

/-- Every instruction has a next state when sp is legal. -/
theorem exec_next (i : Instr) {s : State} (h : s.spLegal) : ∃ t, exec i s = .next t := by
  cases i with
  | ret => exact execRet_next h
  | ldVxK x =>
    simp only [exec, execLdVxK]
    split <;> exact ⟨_, rfl⟩
  | _ => exact ⟨_, rfl⟩

/-- A dispatch goes on when sp is legal, of an illegal word too. -/
theorem dispatch_next (d : Except Reject Instr) (w : Word) {s : State} (h : s.spLegal) :
    ∃ t, dispatch d w s = .next t := by
  cases d with
  | error r => exact ⟨_, rfl⟩
  | ok i =>
    obtain ⟨t, ht⟩ := exec_next i h
    exact ⟨advance t, by simp only [dispatch, ht, andThen]⟩

/-- Every step goes on when sp is legal: only an instruction step could stop, and its fetch leaves
sp alone. -/
theorem step_next {s : State} (h : s.spLegal) : ∃ t, step s = .next t := by
  cases ha : s.active with
  | false => exact ⟨_, step_inactive ha⟩
  | true =>
    cases hc : s.cycleDue with
    | false =>
      cases hd : s.decrementDue with
      | false => exact ⟨_, step_time ha hc hd⟩
      | true => exact ⟨_, step_timer ha hc hd⟩
    | true =>
      have hf : (fetch (spendPeriod s)).2.spLegal := (fetch_keeps (spendPeriod s)).sp h
      obtain ⟨t, ht⟩ := dispatch_next (decodeWord (fetch (spendPeriod s)).1)
        (fetch (spendPeriod s)).1 hf
      exact ⟨_, by rw [step_cycle ha hc, instructionStep_eq, ht, andThen]⟩

/-! ### No step reads the sink (10_state R53)

Everything that a step does commutes with putting earlier events into the sink: it neither reads
them nor removes them. -/

/-- The state whose sink held the events `l` before those of `s`. -/
def State.withEarlier (l : List Report) (s : State) : State := { s with reports := l ++ s.reports }

/-- A meaning that answers the same whatever events the sink held before, and keeps them there. -/
def SinkBlind (f : State → Result) : Prop :=
  ∀ l s, f (s.withEarlier l) = andThen (f s) fun t => .next (t.withEarlier l)

/-- What a sink-blind meaning answers depends on the sink only in that it appends to it. -/
theorem SinkBlind.appends {f : State → Result} (hf : SinkBlind f) (s : State)
    (other : List Report) :
    (∀ t, f s = .next t → ∃ new, t.reports = s.reports ++ new ∧
      f { s with reports := other } = .next { t with reports := other ++ new }) ∧
    (∀ e, f s = .fault e → f { s with reports := other } = .fault e) ∧
    ∀ r, f s = .refused r → f { s with reports := other } = .refused r := by
  have onEmpty : ∀ l, f { s with reports := l } =
      andThen (f { s with reports := [] }) fun t => .next (t.withEarlier l) := by
    intro l
    rw [← hf, State.withEarlier, List.append_nil]
  have hs := onEmpty s.reports
  rw [onEmpty other]
  change f s = _ at hs
  rw [hs]
  cases f { s with reports := [] } with
  | next u =>
    refine ⟨fun t ht => ?_, fun e he => (by cases he), fun r hr => (by cases hr)⟩
    cases ht
    exact ⟨u.reports, rfl, rfl⟩
  | fault e => exact ⟨fun t ht => (by cases ht), fun _ he => he, fun r hr => (by cases hr)⟩
  | refused r => exact ⟨fun t ht => (by cases ht), fun e he => (by cases he), fun _ hr => hr⟩

/-- One meaning after another. -/
theorem SinkBlind.andThen {f g : State → Result} (hf : SinkBlind f) (hg : SinkBlind g) :
    SinkBlind fun s => andThen (f s) g := by
  intro l s
  show Machine.andThen (f (s.withEarlier l)) g = Machine.andThen (Machine.andThen (f s) g) _
  rw [hf l s]
  cases f s with
  | next t => exact hg l t
  | fault e => rfl
  | refused r => rfl

theorem raiseFault_withEarlier (k : FaultKind) (w : Word) (l : List Report) (s : State) :
    raiseFault k w (s.withEarlier l) = (raiseFault k w s).withEarlier l := by
  simp [raiseFault, State.withEarlier]

theorem memRead_withEarlier (a : Nat) (l : List Report) (s : State) :
    memRead a (s.withEarlier l) = ((memRead a s).1, (memRead a s).2.withEarlier l) := by
  rw [memRead_eq, memRead_eq]
  simp [State.withEarlier, State.byteAt, readReports, State.inMemory]

theorem memWrite_withEarlier (a : Nat) (v : Byte) (l : List Report) (s : State) :
    (memWrite a v (s.withEarlier l)).2 = (memWrite a v s).2.withEarlier l := by
  rw [memWrite_eq, memWrite_eq]
  simp [State.withEarlier, writeReports, State.inMemory]

theorem fetch_withEarlier (l : List Report) (s : State) :
    fetch (s.withEarlier l) = ((fetch s).1, (fetch s).2.withEarlier l) := by
  simp only [fetch, memRead_withEarlier]
  rfl

theorem callTo_withEarlier (t w : Word) (l : List Report) (s : State) :
    callTo t w (s.withEarlier l) = (callTo t w s).withEarlier l := by
  unfold callTo
  by_cases h : s.sp.toNat < 16
  · rw [push_ok _ h, push_ok (s := s.withEarlier l) _ h]
    rfl
  · rw [push_overflow _ (Nat.not_lt.1 h),
      push_overflow (s := s.withEarlier l) _ (Nat.not_lt.1 h)]
    exact raiseFault_withEarlier .stackOverflow w l s

theorem drawRows_withEarlier (x0 y0 base n : Nat) (l : List Report) (s : State) :
    drawRows x0 y0 base n (s.withEarlier l) =
      ((drawRows x0 y0 base n s).1.withEarlier l, (drawRows x0 y0 base n s).2) := by
  induction n with
  | zero => rfl
  | succ r ih =>
    rw [drawRows, ih, drawRow, memRead_withEarlier]
    rfl

theorem storeDigits_withEarlier (v : Byte) (l : List Report) (s : State) :
    storeDigits v (s.withEarlier l) = (storeDigits v s).withEarlier l := by
  unfold storeDigits
  rw [memWrite_withEarlier, memWrite_withEarlier, memWrite_withEarlier]
  rfl

theorem storeBlock_withEarlier (k : Nat) (l : List Report) (s : State) :
    storeBlock k (s.withEarlier l) = (storeBlock k s).withEarlier l := by
  induction k with
  | zero => rfl
  | succ k ih =>
    rw [storeBlock, ih]
    exact memWrite_withEarlier _ _ l _

theorem loadBlock_withEarlier (k : Nat) (l : List Report) (s : State) :
    loadBlock k (s.withEarlier l) = (loadBlock k s).withEarlier l := by
  induction k with
  | zero => rfl
  | succ k ih =>
    rw [loadBlock, ih, memRead_withEarlier]
    rfl

theorem execRet_sinkBlind : SinkBlind execRet := by
  intro l s
  unfold execRet
  by_cases h0 : s.sp = 0
  · rw [pop_underflow h0, pop_underflow (s := s.withEarlier l) h0]
    exact congrArg _ (raiseFault_withEarlier .stackUnderflow (encode .ret) l s)
  have hpos : 0 < s.sp.toNat := by bv_omega
  by_cases h16 : s.sp.toNat ≤ 16
  · rw [pop_ok hpos h16, pop_ok (s := s.withEarlier l) hpos h16]
    rfl
  · rw [pop_noSlot (Nat.not_le.1 h16), pop_noSlot (s := s.withEarlier l) (Nat.not_le.1 h16)]
    rfl

/-- No instruction reads the sink. -/
theorem exec_sinkBlind (i : Instr) : SinkBlind (exec i) := by
  intro l s
  cases i with
  | ret => exact execRet_sinkBlind l s
  | call nnn => exact congrArg _ (callTo_withEarlier _ _ l s)
  | callV0 nnn => exact congrArg _ (callTo_withEarlier _ _ l s)
  | drw x y n =>
    have draw := drawRows_withEarlier (s.reg x).toNat (s.reg y).toNat s.index.toNat n.toNat l s
    exact congrArg (fun d => (.next (d.1.setFlag (collisionFlag d.2)) : Result)) draw
  | ldVxK x =>
    have poll : (s.withEarlier l).keyWaitPoll = s.keyWaitPoll := rfl
    simp only [exec, execLdVxK, poll]
    cases s.keyWaitPoll <;> rfl
  | ldB x => exact congrArg _ (storeDigits_withEarlier _ l s)
  | storeRegs x => exact congrArg _ (storeBlock_withEarlier _ l s)
  | loadRegs x => exact congrArg _ (loadBlock_withEarlier _ l s)
  | _ => rfl

theorem dispatch_sinkBlind (d : Except Reject Instr) (w : Word) : SinkBlind (dispatch d w) := by
  cases d with
  | ok i => exact (exec_sinkBlind i).andThen fun l s => rfl
  | error r => exact fun l s => congrArg _ (raiseFault_withEarlier .unknownOpcode w l s)

/-- A cycle fetches the same word and dispatches it blindly. -/
theorem cycle_sinkBlind : SinkBlind cycle := by
  intro l s
  rw [cycle, fetch_withEarlier]
  exact dispatch_sinkBlind _ _ l _

theorem instructionStep_sinkBlind : SinkBlind instructionStep := by
  have turn : SinkBlind cycleTurn :=
    SinkBlind.andThen (f := fun s => cycle (spendPeriod s))
      (fun l s => cycle_sinkBlind l (spendPeriod s)) fun l s => rfl
  exact turn.andThen fun l s => rfl

/-- No step reads the sink: which step it is does not depend on it, and none of the four does. -/
theorem step_sinkBlind : SinkBlind step := by
  intro l s
  cases ha : s.active with
  | false =>
    rw [step_inactive ha, step_inactive (s := s.withEarlier l) ha]
    rfl
  | true =>
    cases hc : s.cycleDue with
    | false =>
      cases hd : s.decrementDue with
      | false =>
        rw [step_time ha hc hd, step_time (s := s.withEarlier l) ha hc hd]
        rfl
      | true =>
        rw [step_timer ha hc hd, step_timer (s := s.withEarlier l) ha hc hd]
        rfl
    | true =>
      rw [step_cycle ha hc, step_cycle (s := s.withEarlier l) ha hc]
      exact instructionStep_sinkBlind l s

/-! ### What an instruction leaves unchanged (10_state R32, R33, R39, R40, R42)

What a call, a return, a key wait and a sprite draw write; the block transfers and Fx33 have their
frames in the laws of the shared operations. -/

/-- A call writes pc, the stack and sp, or the latch and the sink. -/
theorem callTo_frame (t w : Word) (s : State) : callTo t w s = { s with
    pc := (callTo t w s).pc
    sp := (callTo t w s).sp
    stack := (callTo t w s).stack
    latch := (callTo t w s).latch
    reports := (callTo t w s).reports } := by
  rcases callTo_eq t w s with ⟨-, h⟩ | ⟨-, h⟩
  · rw [h]
  · rw [h]
    rfl

/-- A return writes pc and sp, or the latch and the sink. -/
theorem execRet_frame {s t : State} (h : execRet s = .next t) : t = { s with
    pc := t.pc
    sp := t.sp
    latch := t.latch
    reports := t.reports } := by
  rcases execRet_cases h with ⟨-, rfl⟩ | ⟨-, -, rfl⟩ <;> rfl

/-- A key wait counts its poll, and either goes back by one instruction or writes the key. -/
theorem execLdVxK_cases {x : Reg} {s t : State} (h : execLdVxK x s = .next t) :
    (s.keyWaitPoll = none ∧ t = { s.drawn with pc := s.pc - 2 }) ∨
    ∃ k, s.keyWaitPoll = some k ∧ t = s.drawn.setReg x k := by
  unfold execLdVxK at h
  split at h
  next hnone => cases h; exact .inl ⟨hnone, rfl⟩
  next k hsome => cases h; exact .inr ⟨k, hsome, rfl⟩

/-- A key wait writes V[x], pc and the count of draws. -/
theorem execLdVxK_frame {x : Reg} {s t : State} (h : execLdVxK x s = .next t) : t = { s with
    regs := t.regs
    pc := t.pc
    inputDraws := t.inputDraws } := by
  rcases execLdVxK_cases h with ⟨-, rfl⟩ | ⟨k, -, rfl⟩ <;> rfl

/-- A sprite draw leaves the registers to its flag. -/
theorem execDrw_reg {x y : Reg} {n : Nibble} {s t : State} (h : execDrw x y n s = .next t)
    {r : Reg} (hr : s.params.flag ≠ r) : t.reg r = s.reg r := by
  cases h
  rw [setFlag_reg, drawRows_frame, if_neg hr]
  rfl

/-- A sprite draw writes VF, the framebuffer and the sink. -/
theorem execDrw_frame {x y : Reg} {n : Nibble} {s t : State} (h : execDrw x y n s = .next t) :
    t = { s with
      regs := t.regs
      fb := t.fb
      reports := t.reports } := by
  cases h
  rw [drawRows_frame]
  rfl

/-- A block load reads into V0 to Vx alone. -/
theorem execLoadRegs_reg {x : Reg} {s t : State} (h : execLoadRegs x s = .next t) {r : Reg}
    (hr : x.toNat < r.toNat) : t.reg r = s.reg r := by
  cases h
  have hlen : blockLength x ≤ 16 := x.isLt
  rw [loadBlock_reg hlen, if_neg (by unfold blockLength; omega)]

/-- A write of one register leaves every other one. -/
theorem reg_setReg_of_ne {x r : Reg} (s : State) (v : Byte) (h : (r == x) = false) :
    (s.setReg x v).reg r = s.reg r := by
  rw [setReg_reg, if_neg (Ne.symm (by simpa using h))]

/-- A result and a flag leave every register but V[x] and VF, whichever is written first. -/
theorem reg_setReg_setFlag_of_ne {x r : Reg} (s : State) (v f : Byte)
    (h : (r == x || r == s.params.flag) = false) :
    (s.setResultThenFlag x v f).reg r = s.reg r ∧ ((s.setFlag f).setReg x v).reg r = s.reg r := by
  obtain ⟨hx, hf⟩ := Bool.or_eq_false_iff.1 h
  exact ⟨(reg_setReg_of_ne _ f hf).trans (reg_setReg_of_ne s v hx),
    (reg_setReg_of_ne _ v hx).trans (reg_setReg_of_ne s f hf)⟩

/-- The framebuffer is written by 00E0 and Dxyn alone (43_display R258). -/
theorem exec_fb {i : Instr} {s t : State} (h : exec i s = .next t) (hcls : i ≠ .cls)
    (hdrw : ∀ x y n, i ≠ .drw x y n) : t.fb = s.fb := by
  cases i with
  | cls => exact absurd rfl hcls
  | drw x y n => exact absurd rfl (hdrw x y n)
  | ret => rw [execRet_frame h]
  | call nnn | callV0 nnn => cases h; rw [callTo_frame]
  | ldVxK x => rw [execLdVxK_frame h]
  | ldB x => cases h; rw [storeDigits_frame]
  | storeRegs x => cases h; rw [storeBlock_frame]
  | loadRegs x => cases h; rw [loadBlock_frame]
  | _ => cases h; rfl

/-- I and both timers are as before. -/
def SameIndexAndTimers (s t : State) : Prop :=
  t.index = s.index ∧ t.delayTimer = s.delayTimer ∧ t.soundTimer = s.soundTimer

/-- An instruction leaves I and the timers, or writes one of them alone: I by Annn, Fx1E or Fx29,
DT by Fx15, ST by Fx18. -/
theorem exec_indexAndTimers_cases {i : Instr} {s t : State} (h : exec i s = .next t) :
    SameIndexAndTimers s t ∨
    (((∃ nnn, i = .ldI nnn) ∨ (∃ x, i = .addI x) ∨ ∃ x, i = .ldF x) ∧
      ∃ v, t = { s with index := v }) ∨
    (∃ x, i = .ldDtVx x ∧ t = { s with delayTimer := s.reg x }) ∨
    ∃ x, i = .ldStVx x ∧ t = { s with soundTimer := s.reg x } := by
  have same : SameIndexAndTimers s s := ⟨rfl, rfl, rfl⟩
  cases i with
  | ldI nnn => cases h; exact .inr (.inl ⟨.inl ⟨nnn, rfl⟩, _, rfl⟩)
  | addI x => cases h; exact .inr (.inl ⟨.inr (.inl ⟨x, rfl⟩), _, rfl⟩)
  | ldF x => cases h; exact .inr (.inl ⟨.inr (.inr ⟨x, rfl⟩), _, rfl⟩)
  | ldDtVx x => cases h; exact .inr (.inr (.inl ⟨x, rfl, rfl⟩))
  | ldStVx x => cases h; exact .inr (.inr (.inr ⟨x, rfl, rfl⟩))
  | ret => left; rw [execRet_frame h]; exact same
  | call nnn | callV0 nnn => cases h; left; rw [callTo_frame]; exact same
  | drw x y n => left; rw [execDrw_frame h]; exact same
  | ldVxK x => left; rw [execLdVxK_frame h]; exact same
  | ldB x => cases h; left; rw [storeDigits_frame]; exact same
  | storeRegs x => cases h; left; rw [storeBlock_frame]; exact same
  | loadRegs x => cases h; left; rw [loadBlock_frame]; exact same
  | _ => cases h; exact .inl same

/-! ### The stack unit (10_state R58, R59) -/

/-- A pop reads the topmost occupied slot, under that slot's own name. -/
theorem pop_top {s : State} {j : Nat} (hj : j < 16) (h : j + 1 = s.sp.toNat) :
    pop s = .ok s.stack[j] { s with sp := s.sp - 1 } := by
  rw [pop_ok (by omega) (by omega)]
  simp only [← h, Nat.add_sub_cancel]

/-- A pop after a push with a free slot gives the pushed word, and sp is as before. -/
theorem pop_push {s t : State} {v : Word} (h : s.sp.toNat < 16) (ht : push v s = some t) :
    pop t = .ok v { t with sp := s.sp } := by
  rw [push_ok v h] at ht
  cases ht
  have hcount : s.sp.toNat + 1 = (s.sp + 1).toNat := by bv_omega
  rw [pop_top h hcount]
  simp

/-! ### The obligations -/

/-- Settles O20, by induction on the length of the run: a legal state has a next state, which is
legal. -/
theorem legalMachineNeverStops : Obligations.LegalMachineNeverStops := by
  intro s n
  induction n generalizing s with
  | zero => exact fun hs => ⟨s, rfl, hs⟩
  | succ n ih =>
    intro hs
    obtain ⟨u, hu⟩ := step_next hs.sp
    rw [run_succ hu]
    exact ih u (everyStepKeepsTheInvariant s u hs hu)

/-- Settles O23, since every step commutes with putting earlier events into the sink. -/
theorem reportsAreAnAppendOnlyOutput : Obligations.ReportsAreAnAppendOnlyOutput :=
  step_sinkBlind.appends

/-- Settles O25, by cases on the instruction: those that write registers by the rules of register
writes, the others by their frames. -/
theorem onlyTheTabledRegistersAreWritten : Obligations.OnlyTheTabledRegistersAreWritten := by
  intro i s t h r hr
  cases i with
  | ldImm x _ | addImm x _ | ldReg x _ | orReg x _ | andReg x _ | xorReg x _ | rnd x _ | ldVxDt x =>
    cases h
    exact reg_setReg_of_ne _ _ hr
  | ldVxK x =>
    rcases execLdVxK_cases h with ⟨-, rfl⟩ | ⟨k, -, rfl⟩
    · rfl
    · exact reg_setReg_of_ne s.drawn k hr
  | addReg x _ | subReg x _ | subnReg x _ =>
    cases h
    exact (reg_setReg_setFlag_of_ne s _ _ hr).1
  | shr x _ | shl x _ =>
    cases h
    exact (reg_setReg_setFlag_of_ne s _ _ hr).2
  | drw x y n => exact execDrw_reg h (Ne.symm (by simpa [mayWriteReg] using hr))
  | loadRegs x => exact execLoadRegs_reg h (by simpa [mayWriteReg] using hr)
  | ret => rw [execRet_frame h]; rfl
  | call nnn | callV0 nnn => cases h; rw [callTo_frame]; rfl
  | ldB x => cases h; rw [storeDigits_frame]; rfl
  | storeRegs x => cases h; rw [storeBlock_frame]; rfl
  | _ => cases h; rfl

/-- Settles O26: an instruction that writes one of the three leaves the other two. -/
theorem indexAndTimersHaveTheirOnlyWriters : Obligations.IndexAndTimersHaveTheirOnlyWriters := by
  intro i s t h
  rcases exec_indexAndTimers_cases h with ⟨hindex, hdelay, hsound⟩ | ⟨hwriter, v, rfl⟩ |
    ⟨x, rfl, rfl⟩ | ⟨x, rfl, rfl⟩
  · exact ⟨fun _ _ _ => hindex, fun _ => hdelay, fun _ => hsound⟩
  · refine ⟨fun hldI haddI hldF => ?_, fun _ => rfl, fun _ => rfl⟩
    rcases hwriter with ⟨nnn, hi⟩ | ⟨x, hi⟩ | ⟨x, hi⟩
    · exact absurd hi (hldI nnn)
    · exact absurd hi (haddI x)
    · exact absurd hi (hldF x)
  · exact ⟨fun _ _ _ => rfl, fun hd => absurd rfl (hd x), fun _ => rfl⟩
  · exact ⟨fun _ _ _ => rfl, fun _ => rfl, fun hs => absurd rfl (hs x)⟩

/-- Settles O28: the Scheduler's fields by `exec_sameScheduling`, the framebuffer by `exec_fb`. -/
theorem controlStateIsNoInstructionsToWrite : Obligations.ControlStateIsNoInstructionsToWrite := by
  intro i s t h
  obtain ⟨hparams, hclosed, hacc, htacc, hcount, hlast, hdraws⟩ := exec_sameScheduling h
  exact ⟨hparams, hclosed, hacc, htacc, hcount, hlast, hdraws, exec_fb h⟩

/-- Settles O30 by the rules of the two operations. -/
theorem popGivesBackWhatWasPushed : Obligations.PopGivesBackWhatWasPushed := by
  intro s v
  refine ⟨fun hfree => ?_, fun j hj => pop_top j.isLt hj, push_overflow v, pop_underflow⟩
  have hpush := push_ok v hfree
  refine ⟨_, hpush, rfl, fun j => ?_, pop_push hfree hpush⟩
  rw [Vector.getElem_set]
  simp only [eq_comm]

end Sys2Proof.Machine

/-! # Memory, the fetch, and who writes memory and the stack (20_memory)

The family `20_memory`: the checked accesses of the AddressSpace (O29), the fetch (O10), and the
instructions that write memory, the stack slots and sp (O27). -/

namespace Sys2Proof.Machine

/-! ### Accesses on either side of the bound (20_memory R72, R73) -/

/-- A read in range answers the byte there and changes nothing. -/
theorem memRead_of_lt {s : State} {a : Nat} (h : a < s.params.memSize) :
    memRead a s = (s.mem.get a, s) :=
  if_pos (inMemory_iff.2 h)

/-- A read out of range answers 0 and changes nothing but the sink. -/
theorem memRead_of_le {s : State} {a : Nat} (h : s.params.memSize ≤ a) :
    memRead a s = (0, s.report (.outOfBoundsRead a)) := by
  rw [memRead, not_inMemory_iff.2 h]
  rfl

/-- A write in range succeeds and changes nothing but memory. -/
theorem memWrite_of_lt {s : State} {a : Nat} (h : a < s.params.memSize) (v : Byte) :
    memWrite a v s = (true, { s with mem := s.mem.set a v }) :=
  if_pos (inMemory_iff.2 h)

/-- A write out of range fails and changes nothing but the sink. -/
theorem memWrite_of_le {s : State} {a : Nat} (h : s.params.memSize ≤ a) (v : Byte) :
    memWrite a v s = (false, s.report (.outOfBoundsWrite a v)) := by
  rw [memWrite, not_inMemory_iff.2 h]
  rfl

/-- The same memory and parameters read the same at every address. -/
theorem byteAt_congr {s t : State} (hm : t.mem = s.mem) (hp : t.params = s.params) (a : Nat) :
    t.byteAt a = s.byteAt a := by
  unfold State.byteAt State.inMemory
  rw [hm, hp]

/-! ### The fetch (20_memory R74, R76) -/

/-- A fetch wholly out of range reads 0x0000. -/
theorem fetch_word_of_le {s : State} (h : s.params.memSize ≤ s.pc.toNat) : (fetch s).1 = 0x0000 := by
  rw [fetch_eq, byteAt_of_le h, byteAt_of_le (Nat.le_succ_of_le h)]
  rfl

/-! ### Who writes memory and the stack (20_memory R71, 10_state R38) -/

/-- An instruction leaves memory, the stack slots and sp, or is one of their writers: Fx33 and Fx55
leave the stack and sp, RET leaves memory and the slots, a call leaves memory. -/
theorem exec_memoryAndStack_cases {i : Instr} {s t : State} (h : exec i s = .next t) :
    (t.mem = s.mem ∧ t.stack = s.stack ∧ t.sp = s.sp) ∨
    (((∃ x, i = .ldB x) ∨ ∃ x, i = .storeRegs x) ∧ t.stack = s.stack ∧ t.sp = s.sp) ∨
    (i = .ret ∧ t.mem = s.mem ∧ t.stack = s.stack) ∨
    (((∃ nnn, i = .call nnn) ∨ ∃ nnn, i = .callV0 nnn) ∧ t.mem = s.mem) := by
  cases i with
  | ldB x => cases h; rw [storeDigits_frame]; exact .inr (.inl ⟨.inl ⟨x, rfl⟩, rfl, rfl⟩)
  | storeRegs x => cases h; rw [storeBlock_frame]; exact .inr (.inl ⟨.inr ⟨x, rfl⟩, rfl, rfl⟩)
  | ret => rw [execRet_frame h]; exact .inr (.inr (.inl ⟨rfl, rfl, rfl⟩))
  | call nnn => cases h; rw [callTo_frame]; exact .inr (.inr (.inr ⟨.inl ⟨nnn, rfl⟩, rfl⟩))
  | callV0 nnn => cases h; rw [callTo_frame]; exact .inr (.inr (.inr ⟨.inr ⟨nnn, rfl⟩, rfl⟩))
  | drw x y n => rw [execDrw_frame h]; exact .inl ⟨rfl, rfl, rfl⟩
  | ldVxK x => rw [execLdVxK_frame h]; exact .inl ⟨rfl, rfl, rfl⟩
  | loadRegs x => cases h; rw [loadBlock_frame]; exact .inl ⟨rfl, rfl, rfl⟩
  | _ => cases h; exact .inl ⟨rfl, rfl, rfl⟩

/-! ### The obligations -/

/-- Settles O29: both accesses by their rules on either side of the bound, what is read after a write
by `memWrite_byteAt`. -/
theorem memoryReadsWhatWasWrittenWithinBounds :
    Obligations.MemoryReadsWhatWasWrittenWithinBounds := by
  intro s a v hm
  refine ⟨by rw [memRead_eq], fun hlt => ?_, fun hle => ?_⟩
  · refine ⟨by rw [memRead_of_lt hlt], by rw [memWrite_of_lt hlt], by rw [memWrite_of_lt hlt],
      fun b => ?_⟩
    simp only [memWrite_byteAt hm, inMemory_iff.2 hlt, and_true]
  · exact ⟨byteAt_of_le hle, by rw [memRead_of_le hle], memWrite_of_le hle v⟩

/-- Settles O10 by `fetch_eq`: the word is the two bytes, and the two reads' reports are those of the
fetch. -/
theorem fetchIsBigEndianAndBoundsChecked : Obligations.FetchIsBigEndianAndBoundsChecked := by
  intro s
  refine ⟨?_, ?_, fun hle => ⟨fetch_word_of_le hle, by decide⟩⟩
  · rw [fetch_eq, wordOfBytes_toNat]
  · rw [fetch_eq, fetchReports, List.append_assoc]

/-- Settles O27: what is left unchanged in each case of `exec_memoryAndStack_cases`, whose writers the
three premises exclude. -/
theorem memoryAndStackHaveTheirOnlyWriters : Obligations.MemoryAndStackHaveTheirOnlyWriters := by
  intro i s t h
  have hread : t.mem = s.mem → t.mem = s.mem ∧ ∀ a, t.byteAt a = s.byteAt a :=
    fun hm => ⟨hm, byteAt_congr hm (exec_sameScheduling h).1⟩
  rcases exec_memoryAndStack_cases h with ⟨hm, hstack, hsp⟩ | ⟨hwriter, hstack, hsp⟩ |
    ⟨hret, hm, hstack⟩ | ⟨hcall, hm⟩
  · exact ⟨fun _ _ => hread hm, fun _ _ => hstack, fun _ _ _ => hsp⟩
  · refine ⟨fun hldB hstore => ?_, fun _ _ => hstack, fun _ _ _ => hsp⟩
    rcases hwriter with ⟨x, hi⟩ | ⟨x, hi⟩
    · exact absurd hi (hldB x)
    · exact absurd hi (hstore x)
  · exact ⟨fun _ _ => hread hm, fun _ _ => hstack, fun _ _ hno => absurd hret hno⟩
  · have excluded : (∀ nnn, i ≠ .call nnn) → ¬ ∀ nnn, i ≠ .callV0 nnn := by
      intro hc hv
      rcases hcall with ⟨nnn, hi⟩ | ⟨nnn, hi⟩
      · exact hc nnn hi
      · exact hv nnn hi
    exact ⟨fun _ _ => hread hm, fun hc hv => absurd hv (excluded hc),
      fun hc hv => absurd hv (excluded hc)⟩

end Sys2Proof.Machine

/-! # The decoder, the encoder and the opcode map (30_encoding)

The family `30_encoding`: decoder and encoder are each other's inverse on the legal words (O2, O3), the
rows of the opcode map part those words among the instructions (O4), and words written out from the spec
(O1). -/

namespace Sys2Proof.Machine

/-! ### Decoding an encoded instruction (30_encoding R101, R104) -/

/-- The decoder reads back the fields that the encoder packed. -/
@[simp] theorem decodeWord_encode (i : Instr) : decodeWord (encode i) = .ok i := by
  cases i with
  | cls | ret => decide
  | ldReg | orReg | andReg | xorReg | addReg | subReg | shr | subnReg | shl =>
    simp [encode, decodeWord, decodeFamily8]
  | skp | sknp => simp [encode, decodeWord, decodeFamilyE]
  | ldVxDt | ldVxK | ldDtVx | ldStVx | addI | ldF | ldB | storeRegs | loadRegs =>
    simp [encode, decodeWord, decodeFamilyF]
  | _ => simp [encode, decodeWord]

/-- From its bytes an instruction is read back, and the bytes after it are handed back (20_memory R75). -/
theorem decodeBytes_encodeBytes (i : Instr) (rest : List Byte) :
    decodeBytes (encodeBytes i ++ rest) = .ok (i, rest) := by
  simp [encodeBytes, decodeBytes, wordOfBytes_bytes, Except.map]

/-! ### Encoding a decoded word (30_encoding R101) -/

/-- A word whose family is known is that family packed with the word's own low bits. -/
theorem packNnn_of_fields {w : Word} {f : Nibble} (hf : fieldF w = f) :
    packNnn f (fieldNnn w) = w := by
  rw [← hf, packNnn_fields]

theorem packXKk_of_fields {w : Word} {f : Nibble} {kk : Byte} (hf : fieldF w = f)
    (hkk : fieldKk w = kk) : packXKk f (fieldX w) kk = w := by
  rw [← hf, ← hkk, packXKk_fields]

theorem packXYN_of_fields {w : Word} {f n : Nibble} (hf : fieldF w = f) (hn : fieldN w = n) :
    packXYN f (fieldX w) (fieldY w) n = w := by
  rw [← hf, ← hn, packXYN_fields]

/-- Family 0 drops no bit: its two instructions fix all twelve low bits (30_encoding R105). -/
theorem encode_of_decodeFamily0 {w : Word} {i : Instr} (hf : fieldF w = 0x0)
    (h : decodeFamily0 w = .ok i) : encode i = w := by
  unfold decodeFamily0 at h
  split at h <;> cases h
  case h_1 hnnn | h_2 hnnn => rw [← packNnn_of_fields hf, hnnn]; rfl

/-- Family 8 drops no bit: each instruction holds x and y and fixes n (30_encoding R106). -/
theorem encode_of_decodeFamily8 {w : Word} {i : Instr} (hf : fieldF w = 0x8)
    (h : decodeFamily8 w = .ok i) : encode i = w := by
  unfold decodeFamily8 at h
  split at h <;> cases h
  all_goals exact packXYN_of_fields hf ‹_›

/-- Family E drops no bit: each instruction holds x and fixes kk (30_encoding R107). -/
theorem encode_of_decodeFamilyE {w : Word} {i : Instr} (hf : fieldF w = 0xE)
    (h : decodeFamilyE w = .ok i) : encode i = w := by
  unfold decodeFamilyE at h
  split at h <;> cases h
  all_goals exact packXKk_of_fields hf ‹_›

/-- Family F drops no bit: each instruction holds x and fixes kk (30_encoding R108). -/
theorem encode_of_decodeFamilyF {w : Word} {i : Instr} (hf : fieldF w = 0xF)
    (h : decodeFamilyF w = .ok i) : encode i = w := by
  unfold decodeFamilyF at h
  split at h <;> cases h
  all_goals exact packXKk_of_fields hf ‹_›

/-- The decoder drops no bit: a family with a sub-discriminant by its own lemma, any other because its
instruction holds every field below the family (30_encoding R109). -/
theorem encode_of_decodeWord {w : Word} {i : Instr} (h : decodeWord w = .ok i) : encode i = w := by
  unfold decodeWord at h
  split at h
  case h_1 hf => exact encode_of_decodeFamily0 hf h
  case h_9 hf => exact encode_of_decodeFamily8 hf h
  case h_15 hf => exact encode_of_decodeFamilyE hf h
  case h_16 => -- no other family is left
    refine encode_of_decodeFamilyF ?_ h
    simp only [imp_false] at *
    bv_omega
  case h_2 hf | h_3 hf | h_11 hf | h_12 hf => cases h; exact packNnn_of_fields hf
  case h_4 hf | h_5 hf | h_7 hf | h_8 hf | h_13 hf => cases h; exact packXKk_of_fields hf rfl
  case h_6 hf | h_10 hf | h_14 hf => cases h; exact packXYN_of_fields hf rfl

/-- The decoder is the encoder's partial inverse. -/
theorem decodeWord_eq_ok_iff {w : Word} {i : Instr} : decodeWord w = .ok i ↔ encode i = w :=
  ⟨encode_of_decodeWord, fun h => h ▸ decodeWord_encode i⟩

/-! ### The words of a row (30_encoding R110) -/

theorem and_of_selectsRow {w mask m : Word} (h : selectsRow w (mask, m) = true) : w &&& mask = m :=
  eq_of_beq h

/-- A field that the mask leaves whole is the row's own in every word that selects the row. -/
theorem fieldF_of_selectsRow {w mask m : Word} (h : selectsRow w (mask, m) = true)
    (hmask : fieldF mask = BitVec.allOnes 4) : fieldF w = fieldF m := by
  rw [← and_of_selectsRow h, fieldF_and, hmask, BitVec.and_allOnes]

theorem fieldN_of_selectsRow {w mask m : Word} (h : selectsRow w (mask, m) = true)
    (hmask : fieldN mask = BitVec.allOnes 4) : fieldN w = fieldN m := by
  rw [← and_of_selectsRow h, fieldN_and, hmask, BitVec.and_allOnes]

theorem fieldKk_of_selectsRow {w mask m : Word} (h : selectsRow w (mask, m) = true)
    (hmask : fieldKk mask = BitVec.allOnes 8) : fieldKk w = fieldKk m := by
  rw [← and_of_selectsRow h, fieldKk_and, hmask, BitVec.and_allOnes]

/-- The row whose mask is every bit is selected by its match alone. -/
theorem eq_of_selectsRow_allOnes {w m : Word} (h : selectsRow w (0xFFFF, m) = true) : m = w := by
  rw [← and_of_selectsRow h]
  exact BitVec.and_allOnes

/-- The instruction of `i`'s row whose fields are those of the word `w`. -/
def withFieldsOf (w : Word) : Instr → Instr
  | .cls => .cls
  | .ret => .ret
  | .jp _ => .jp (fieldNnn w)
  | .call _ => .call (fieldNnn w)
  | .seImm _ _ => .seImm (fieldX w) (fieldKk w)
  | .sneImm _ _ => .sneImm (fieldX w) (fieldKk w)
  | .seReg _ _ _ => .seReg (fieldX w) (fieldY w) (fieldN w)
  | .ldImm _ _ => .ldImm (fieldX w) (fieldKk w)
  | .addImm _ _ => .addImm (fieldX w) (fieldKk w)
  | .ldReg _ _ => .ldReg (fieldX w) (fieldY w)
  | .orReg _ _ => .orReg (fieldX w) (fieldY w)
  | .andReg _ _ => .andReg (fieldX w) (fieldY w)
  | .xorReg _ _ => .xorReg (fieldX w) (fieldY w)
  | .addReg _ _ => .addReg (fieldX w) (fieldY w)
  | .subReg _ _ => .subReg (fieldX w) (fieldY w)
  | .shr _ _ => .shr (fieldX w) (fieldY w)
  | .subnReg _ _ => .subnReg (fieldX w) (fieldY w)
  | .shl _ _ => .shl (fieldX w) (fieldY w)
  | .sneReg _ _ _ => .sneReg (fieldX w) (fieldY w) (fieldN w)
  | .ldI _ => .ldI (fieldNnn w)
  | .callV0 _ => .callV0 (fieldNnn w)
  | .rnd _ _ => .rnd (fieldX w) (fieldKk w)
  | .drw _ _ _ => .drw (fieldX w) (fieldY w) (fieldN w)
  | .skp _ => .skp (fieldX w)
  | .sknp _ => .sknp (fieldX w)
  | .ldVxDt _ => .ldVxDt (fieldX w)
  | .ldVxK _ => .ldVxK (fieldX w)
  | .ldDtVx _ => .ldDtVx (fieldX w)
  | .ldStVx _ => .ldStVx (fieldX w)
  | .addI _ => .addI (fieldX w)
  | .ldF _ => .ldF (fieldX w)
  | .ldB _ => .ldB (fieldX w)
  | .storeRegs _ => .storeRegs (fieldX w)
  | .loadRegs _ => .loadRegs (fieldX w)

@[simp] theorem opcodeRow_withFieldsOf (w : Word) (i : Instr) :
    opcodeRow (withFieldsOf w i) = opcodeRow i := by
  cases i <;> rfl

/-- A word of `i`'s row is the row's instruction with the word's own fields: the mask fixes the fields
that this instruction does not hold. -/
theorem encode_withFieldsOf {w : Word} {i : Instr} (h : selectsRow w (opcodeRow i) = true) :
    encode (withFieldsOf w i) = w := by
  cases i with
  | cls | ret => exact eq_of_selectsRow_allOnes h
  | jp | call | ldI | callV0 => exact packNnn_of_fields (fieldF_of_selectsRow h rfl)
  | seImm | sneImm | ldImm | addImm | rnd =>
    exact packXKk_of_fields (fieldF_of_selectsRow h rfl) rfl
  | seReg | sneReg | drw => exact packXYN_of_fields (fieldF_of_selectsRow h rfl) rfl
  | ldReg | orReg | andReg | xorReg | addReg | subReg | shr | subnReg | shl =>
    exact packXYN_of_fields (fieldF_of_selectsRow h rfl) (fieldN_of_selectsRow h rfl)
  | skp | sknp | ldVxDt | ldVxK | ldDtVx | ldStVx | addI | ldF | ldB | storeRegs | loadRegs =>
    exact packXKk_of_fields (fieldF_of_selectsRow h rfl) (fieldKk_of_selectsRow h rfl)

/-- Every word that selects the row of `i` decodes to that row's instruction: for each `i` the "Encoding"
line of its rule, as in `decodesRow (.jp 0)` (41_control_flow R170). -/
theorem decodesRow (i : Instr) :
    DecodesRow (opcodeRow i).1 (opcodeRow i).2 (fun w => withFieldsOf w i) :=
  fun _ h => decodeWord_eq_ok_iff.2 (encode_withFieldsOf h)

/-! ### The opcode map (30_encoding R110, R112) -/

theorem opcodeRow_mem (i : Instr) : opcodeRow i ∈ opcodeRows := by
  cases i <;> simp [opcodeRow, opcodeRows]

/-- The match of each row decodes to an instruction of that row. -/
theorem decodeWord_match : ∀ row ∈ opcodeRows, (decodeWord row.2).map opcodeRow = .ok row :=
  List.map_inj_left.1 rfl

theorem opcodeRows_nodup : opcodeRows.Nodup := by decide

/-- Every row of the map is some instruction's. -/
theorem exists_opcodeRow_eq {row : Word × Word} (h : row ∈ opcodeRows) : ∃ i, opcodeRow i = row := by
  have hm := decodeWord_match row h
  cases hd : decodeWord row.2 with
  | error r => rw [hd] at hm; cases hm
  | ok i => rw [hd] at hm; exact ⟨i, Except.ok.inj hm⟩

/-- A word that selects a row decodes to an instruction of it. -/
theorem decodeWord_of_selectsRow {w : Word} {row : Word × Word} (hrow : row ∈ opcodeRows)
    (h : selectsRow w row = true) : ∃ i, decodeWord w = .ok i ∧ opcodeRow i = row := by
  obtain ⟨i, rfl⟩ := exists_opcodeRow_eq hrow
  exact ⟨withFieldsOf w i, decodesRow i w h, opcodeRow_withFieldsOf w i⟩

/-- No word selects two rows, because the decoder answers one instruction (30_encoding R104, R110). -/
theorem selectsRow_unique {w : Word} {row row' : Word × Word} (hrow : row ∈ opcodeRows)
    (hrow' : row' ∈ opcodeRows) (h : selectsRow w row = true) (h' : selectsRow w row' = true) :
    row = row' := by
  obtain ⟨i, hi, rfl⟩ := decodeWord_of_selectsRow hrow h
  obtain ⟨j, hj, rfl⟩ := decodeWord_of_selectsRow hrow' h'
  cases hi.symm.trans hj
  rfl

/-- The encoding of every instruction selects its row: the laws of `RowFit`, one per constructor. -/
theorem selectsRow_encode (i : Instr) : selectsRow (encode i) (opcodeRow i) = true :=
  match i with
  | .cls => Laws.RowFit.cls
  | .ret => Laws.RowFit.ret
  | .jp nnn => Laws.RowFit.jp nnn
  | .call nnn => Laws.RowFit.call nnn
  | .seImm x kk => Laws.RowFit.seImm x kk
  | .sneImm x kk => Laws.RowFit.sneImm x kk
  | .seReg x y n => Laws.RowFit.seReg x y n
  | .ldImm x kk => Laws.RowFit.ldImm x kk
  | .addImm x kk => Laws.RowFit.addImm x kk
  | .ldReg x y => Laws.RowFit.ldReg x y
  | .orReg x y => Laws.RowFit.orReg x y
  | .andReg x y => Laws.RowFit.andReg x y
  | .xorReg x y => Laws.RowFit.xorReg x y
  | .addReg x y => Laws.RowFit.addReg x y
  | .subReg x y => Laws.RowFit.subReg x y
  | .shr x y => Laws.RowFit.shr x y
  | .subnReg x y => Laws.RowFit.subnReg x y
  | .shl x y => Laws.RowFit.shl x y
  | .sneReg x y n => Laws.RowFit.sneReg x y n
  | .ldI nnn => Laws.RowFit.ldI nnn
  | .callV0 nnn => Laws.RowFit.callV0 nnn
  | .rnd x kk => Laws.RowFit.rnd x kk
  | .drw x y n => Laws.RowFit.drw x y n
  | .skp x => Laws.RowFit.skp x
  | .sknp x => Laws.RowFit.sknp x
  | .ldVxDt x => Laws.RowFit.ldVxDt x
  | .ldVxK x => Laws.RowFit.ldVxK x
  | .ldDtVx x => Laws.RowFit.ldDtVx x
  | .ldStVx x => Laws.RowFit.ldStVx x
  | .addI x => Laws.RowFit.addI x
  | .ldF x => Laws.RowFit.ldF x
  | .ldB x => Laws.RowFit.ldB x
  | .storeRegs x => Laws.RowFit.storeRegs x
  | .loadRegs x => Laws.RowFit.loadRegs x

/-- A word that decodes selects the row of its instruction. -/
theorem selectsRow_of_decodeWord {w : Word} {i : Instr} (h : decodeWord w = .ok i) :
    selectsRow w (opcodeRow i) = true :=
  encode_of_decodeWord h ▸ selectsRow_encode i

/-! ### The obligations -/

/-- Settles O2 by `decodeWord_encode`, from the bytes by `decodeBytes_encodeBytes`. -/
theorem decodeOfEncodeIsTheInstruction : Obligations.DecodeOfEncodeIsTheInstruction :=
  fun i rest => ⟨decodeWord_encode i, decodeBytes_encodeBytes i rest⟩

/-- Settles O3 by `encode_of_decodeWord`. -/
theorem encodeOfDecodeIsTheWord : Obligations.EncodeOfDecodeIsTheWord :=
  fun _ _ => encode_of_decodeWord

/-- Settles O4: no overlap by `selectsRow_unique`, since the map lists no row twice; legal words and
selected rows by `decodeWord_of_selectsRow` and `selectsRow_of_decodeWord`. -/
theorem opcodeRowsPartitionTheLegalWords : Obligations.OpcodeRowsPartitionTheLegalWords := by
  refine ⟨rfl, fun w a b ha hb => ?_, fun w => ⟨?_, ?_⟩,
    fun w i h => ⟨opcodeRow_mem i, selectsRow_of_decodeWord h⟩⟩
  · have hlen : opcodeRows.length = 34 := rfl
    rw [List.getD_eq_getElem _ _ (by omega)] at ha hb
    exact Fin.ext (opcodeRows_nodup.getElem_inj_iff.1
      (selectsRow_unique (List.getElem_mem _) (List.getElem_mem _) ha hb))
  · rintro ⟨i, h⟩
    exact ⟨opcodeRow i, opcodeRow_mem i, selectsRow_of_decodeWord h⟩
  · rintro ⟨row, hrow, h⟩
    obtain ⟨i, hi, -⟩ := decodeWord_of_selectsRow hrow h
    exact ⟨i, hi⟩

/-- Settles O1: the decoder run on each of the words. -/
theorem specWordsDecode : Obligations.SpecWordsDecode := by
  unfold Obligations.SpecWordsDecode
  decide

end Sys2Proof.Machine

/-! # The cycle, the steps and the tick (40_cycle)

The family `40_cycle`: where an instruction goes and when it faults (O11, O24), what one step does (O8,
O12, O18, O60), what a latched fault freezes (O13), and a tick as a run of its cycles and its timer
decrements (O14, O15, O16). -/

namespace Sys2Proof.Machine

/-! ### Where an instruction goes (40_cycle R142 to R145) -/

/-- A skip, with the advance of its cycle, goes on by two instruction widths if its condition holds. -/
theorem skipIf_pc_add_two {c : Bool} {p : Prop} [Decidable p] (s : State) (h : c = true ↔ p) :
    (skipIf c s).pc + 2 = if p then s.pc + 4 else s.pc + 2 := by
  simp only [skipIf_pc, h]
  split
  · rw [BitVec.add_assoc]
    rfl
  · rfl

/-- A call that raises no fault has left pc two below its target. -/
theorem callTo_pc_add_two {t w : Word} {s : State} (h : (callTo t w s).latch = none) :
    (callTo t w s).pc + 2 = t := by
  rcases callTo_eq t w s with ⟨-, heq⟩ | ⟨-, heq⟩
  · rw [heq]
    exact BitVec.sub_add_cancel t 2
  · rw [heq] at h
    cases h

/-- The pc that an instruction leaves without a fault is two below the table's entry (40_cycle R145). -/
theorem exec_pc_add_two {i : Instr} {s t : State} (h : exec i s = .next t) (hl : t.latch = none) :
    t.pc + 2 = nextPc i s := by
  cases i with
  | ret =>
    rcases execRet_cases h with ⟨-, rfl⟩ | ⟨-, -, rfl⟩
    · cases hl
    · rfl
  | jp nnn => cases h; exact BitVec.sub_add_cancel _ _
  | call nnn | callV0 nnn => cases h; exact callTo_pc_add_two hl
  | seImm x kk | seReg x y n => cases h; exact skipIf_pc_add_two s beq_iff_eq
  | sneImm x kk | sneReg x y n => cases h; exact skipIf_pc_add_two s bne_iff_ne
  | skp x => cases h; exact skipIf_pc_add_two s.drawn Iff.rfl
  | sknp x =>
    cases h
    rw [skipIf_pc_add_two s.drawn (Bool.not_eq_true' _).to_iff, nextPc]
    cases hkey : Config.keyPressed s.inputDraws (s.reg x) <;> simp [State.keyPressed, hkey]
  | ldVxK x =>
    rcases execLdVxK_cases h with ⟨hnone, rfl⟩ | ⟨k, hsome, rfl⟩
    · rw [nextPc, if_pos hnone]
      exact BitVec.sub_add_cancel _ _
    · rw [nextPc, hsome]
      rfl
  | drw x y n => rw [execDrw_frame h]; rfl
  | ldB x => cases h; rw [storeDigits_frame]; rfl
  | storeRegs x => cases h; rw [storeBlock_frame]; rfl
  | loadRegs x => cases h; rw [loadBlock_frame]; rfl
  | _ => cases h; rfl

/-- Where no fault was latched, an instruction that leaves one latched has raised it, and done nothing
else (60_exceptions R341). -/
theorem exec_eq_raiseFault {i : Instr} {s t : State} {k : FaultKind} (hs : s.latch = none)
    (h : exec i s = .next t) (ht : t.latch = some k) :
    RaisesFault k i s ∧ t = raiseFault k (encode i) s := by
  rcases exec_cases h with hk | ⟨k', hraise, rfl⟩
  · rw [hk.latch, hs] at ht
    cases ht
  · cases ht
    exact ⟨hraise, rfl⟩

/-! ### Results one after another -/

/-- Going on reaches a next state exactly through a next state of the first result. -/
theorem andThen_eq_next {r : Result} {f : State → Result} {t : State} :
    andThen r f = .next t ↔ ∃ u, r = .next u ∧ f u = .next t := by
  cases r <;> simp [andThen]

/-- Going on twice is going on once. -/
theorem andThen_assoc (r : Result) (f g : State → Result) :
    andThen (andThen r f) g = andThen r fun t => andThen (f t) g := by
  cases r <;> rfl

/-! ### One step (40_cycle R140, R147, R152) -/

/-- What a cycle decodes, and the state in which it executes: the period spent, the reports of the fetch
added (20_memory R76). -/
theorem fetch_spendPeriod (s : State) : fetch (spendPeriod s) =
    (s.fetchedWord, { spendPeriod s with reports := s.reports ++ fetchReports s }) := by
  rw [fetch_eq, List.append_assoc]
  rfl

/-- Neither an illegal word nor an instruction writes the Scheduler's bookkeeping. -/
theorem dispatch_sameScheduling {d : Except Reject Instr} {w : Word} {s t : State}
    (h : dispatch d w s = .next t) : SameScheduling s t := by
  cases d with
  | error r =>
    cases h
    exact ⟨rfl, rfl, rfl, rfl, rfl, rfl, rfl⟩
  | ok i =>
    obtain ⟨u, hu, ht⟩ := andThen_eq_next.1 h
    cases ht
    exact exec_sameScheduling (t := u) hu

/-- One cycle leaves the Scheduler's bookkeeping alone: its fetch writes the sink. -/
theorem cycle_sameScheduling {s t : State} (h : cycle s = .next t) : SameScheduling s t := by
  have hsame : SameScheduling (fetch s).2 t := dispatch_sameScheduling h
  rw [fetch_eq] at hsame
  exact hsame

/-- A turn of a tick's loop spends one period and counts one cycle (40_cycle R147 step 3). -/
theorem cycleTurn_scheduling {s t : State} (h : cycleTurn s = .next t) :
    t.params = s.params ∧ t.closed = s.closed ∧ t.acc = s.acc - s.params.instrPeriod ∧
      t.tacc = s.tacc ∧ t.tickCount = s.tickCount + 1 := by
  obtain ⟨u, hu, ht⟩ := andThen_eq_next.1 h
  obtain ⟨hparams, hclosed, hacc, htacc, hcount, -, -⟩ := cycle_sameScheduling hu
  cases ht
  exact ⟨hparams, hclosed, hacc, htacc, congrArg (· + 1) hcount⟩

/-- The instruction step of an active machine is a turn of the loop, and the tick's last line if it is
over. -/
theorem step_of_cycleTurn {s t : State} (ha : s.active = true) (hc : s.cycleDue = true)
    (h : cycleTurn s = .next t) : step s = .next (finishTickIfOver t) := by
  rw [step_cycle ha hc, instructionStep, h, andThen]

/-- The opening of a tick writes the accumulators, the counts and the count of draws. -/
theorem timeStep_frame (s : State) : timeStep s = { s with
    acc := s.acc + Config.tickTime s.timeDraws
    tacc := s.tacc + Config.tickTime s.timeDraws
    tickCount := 0
    lastTickCount := (timeStep s).lastTickCount
    timeDraws := s.timeDraws + 1 } := by
  rw [← timeStep_tickCount s]
  rfl

/-- With a fault latched the machine is inactive. -/
theorem inactive_of_latch {s : State} (h : s.latch ≠ none) : s.active = false := by
  rw [← Bool.not_eq_true, active_iff]
  exact fun ha => h ha.1

/-- With no fault latched, a tick is over iff neither accumulator holds a period. -/
theorem tickOver_iff_lt {s : State} (h : s.latch = none) : s.tickOver = true ↔
    s.acc < s.params.instrPeriod ∧ s.tacc < s.params.timerPeriod := by
  rw [tickOver_iff, not_cycleDue_iff, not_decrementDue_iff]
  simp [h]

/-- With no fault latched and a timer decrement due, a tick goes on. -/
theorem not_tickOver_of_decrementDue {s : State} (hl : s.latch = none)
    (hd : s.decrementDue = true) : s.tickOver = false := by
  simp [State.tickOver, hl, hd]

/-! ### The cycles of a tick (40_cycle R147 step 3) -/

/-- `k` turns of the loop of a tick lead from `s` to `u`, each begun with a cycle due and no fault
latched. -/
inductive CycleTurns : Nat → State → State → Prop where
  | done (s : State) : CycleTurns 0 s s
  | turn {k : Nat} {s t u : State} (hdue : s.cycleDue = true) (hlatch : s.latch = none)
      (hturn : cycleTurn s = .next t) (rest : CycleTurns k t u) : CycleTurns (k + 1) s u

/-- The loop of a tick is such turns, and ends with a fault latched or no cycle due: the bound on its
turns is never what ends it. -/
theorem cycleTurns_of_tickLoop {n : Nat} {s u : State} (hpos : 0 < s.params.instrPeriod)
    (hn : s.acc / s.params.instrPeriod ≤ n) (h : tickLoop n s = .next u) :
    ∃ k, CycleTurns k s u ∧ (u.latch = none → u.cycleDue = false) := by
  induction n generalizing s with
  | zero =>
    cases h
    have hlt : u.acc < u.params.instrPeriod := (Nat.div_eq_zero_iff_lt hpos).1 (Nat.le_zero.1 hn)
    exact ⟨0, .done u, fun _ => not_cycleDue_iff.2 hlt⟩
  | succ n ih =>
    rw [tickLoop] at h
    split at h
    next hgo =>
      obtain ⟨hdue, hlatch⟩ := Bool.and_eq_true_iff.1 hgo
      obtain ⟨t, hturn, hrest⟩ := andThen_eq_next.1 h
      obtain ⟨hparams, -, hacc, -, -⟩ := cycleTurn_scheduling hturn
      have hdiv := Nat.div_eq_sub_div hpos (cycleDue_iff.1 hdue)
      obtain ⟨k, hturns, hend⟩ := ih (by rwa [hparams]) (by rw [hparams, hacc]; omega) hrest
      exact ⟨k + 1, .turn hdue (Option.isNone_iff_eq_none.1 hlatch) hturn hturns, hend⟩
    next hstop =>
      cases h
      refine ⟨0, .done u, fun hlatch => ?_⟩
      simpa [hlatch] using hstop

/-- `k` turns count `k` cycles and spend `k` periods, and leave the timer domain's accumulator, the
parameters and the closed flag. -/
theorem CycleTurns.scheduling {k : Nat} {s u : State} (h : CycleTurns k s u) :
    u.params = s.params ∧ u.closed = s.closed ∧ k * s.params.instrPeriod + u.acc = s.acc ∧
      u.tacc = s.tacc ∧ u.tickCount = s.tickCount + k := by
  induction h with
  | done s => exact ⟨rfl, rfl, by rw [Nat.zero_mul, Nat.zero_add], rfl, rfl⟩
  | @turn k s t u hdue hlatch hturn rest ih =>
    obtain ⟨hp, hcl, hacc, htacc, hcount⟩ := cycleTurn_scheduling hturn
    obtain ⟨ihp, ihcl, ihacc, ihtacc, ihcount⟩ := ih
    have hle := cycleDue_iff.1 hdue
    rw [hp, hacc] at ihacc
    refine ⟨ihp.trans hp, ihcl.trans hcl, ?_, ihtacc.trans htacc, by omega⟩
    rw [Nat.succ_mul]
    omega

/-- From the opening of a tick the turns count from 0 and share out the time with the tick's dt. -/
theorem CycleTurns.scheduling_of_openTick {k dt : Nat} {s u : State}
    (h : CycleTurns k (openTick dt s) u) :
    u.params = s.params ∧ u.closed = s.closed ∧ k * s.params.instrPeriod + u.acc = s.acc + dt ∧
      u.tacc = s.tacc + dt ∧ u.tickCount = k := by
  simpa using h.scheduling

/-- Turns that latch a fault are at least one. -/
theorem CycleTurns.pos_of_latch {k : Nat} {s u : State} (h : CycleTurns k s u)
    (hs : s.latch = none) (hu : u.latch ≠ none) : 0 < k := by
  cases h with
  | done => exact absurd hs hu
  | turn => exact Nat.succ_pos _

/-- From a state whose tick is over no turn begins. -/
theorem CycleTurns.eq_of_tickOver {k : Nat} {s u : State} (h : CycleTurns k s u)
    (hover : s.tickOver = true) : k = 0 ∧ u = s := by
  cases h with
  | done => exact ⟨rfl, rfl⟩
  | turn hdue hlatch _ _ =>
    rcases tickOver_iff.1 hover with hl | ⟨hc, -⟩
    · exact absurd hlatch hl
    · rw [hdue] at hc
      cases hc

/-- The turns of a tick in progress are as many instruction steps, the last of which writes the tick's
last line if the tick is then over (40_cycle R149, R152; log entry 5). -/
theorem CycleTurns.run {k : Nat} {s u : State} (h : CycleTurns k s u) (hcl : s.closed = false)
    (hover : s.tickOver = false) : core.run k s = .next (finishTickIfOver u) := by
  induction h with
  | done s => rw [finishTickIfOver_of_not_over hover]; rfl
  | @turn k s t u hdue hlatch hturn rest ih =>
    obtain ⟨-, htcl, -, -, -⟩ := cycleTurn_scheduling hturn
    have hstep := step_of_cycleTurn (active_iff.2 ⟨hlatch, hcl⟩) hdue hturn
    rw [run_succ hstep]
    cases htover : t.tickOver with
    | false =>
      rw [finishTickIfOver_of_not_over htover]
      exact ih (htcl.trans hcl) htover
    | true =>
      obtain ⟨rfl, rfl⟩ := rest.eq_of_tickOver htover
      rfl

/-- The turns of a tick are as many instruction steps, which leave the latch and the timers that the turns
leave. -/
theorem CycleTurns.exists_run {k : Nat} {s u : State} (h : CycleTurns k s u)
    (hcl : s.closed = false) : ∃ v, core.run k s = .next v ∧ v.latch = u.latch ∧
      v.delayTimer = u.delayTimer ∧ v.soundTimer = u.soundTimer := by
  cases hover : s.tickOver with
  | false => exact ⟨_, h.run hcl hover, rfl, rfl, rfl⟩
  | true =>
    obtain ⟨rfl, rfl⟩ := h.eq_of_tickOver hover
    exact ⟨u, rfl, rfl, rfl, rfl⟩

/-! ### The timer decrements of a tick (40_cycle R147 step 4) -/

/-- With a period in the timer domain's accumulator a decrement is due, and after it one fewer is. -/
theorem timerTurn_due {n : Nat} {s : State} (h : s.tacc / s.params.timerPeriod = n + 1) :
    s.decrementDue = true ∧
      (timerTurn s).tacc / (timerTurn s).params.timerPeriod = n := by
  obtain ⟨hpos, hle⟩ := Nat.div_pos_iff.1 (by omega : 0 < s.tacc / s.params.timerPeriod)
  have hdiv := Nat.div_eq_sub_div hpos hle
  refine ⟨decrementDue_iff.2 hle, ?_⟩
  rw [timerTurn_tacc, timerTurn_params]
  omega

/-- With no fault latched the timers take every decrement due. -/
theorem runTimers_of_no_fault {s : State} (h : s.latch = none) :
    runTimers s = timerLoop (s.tacc / s.params.timerPeriod) s :=
  if_pos (Option.isNone_iff_eq_none.2 h)

/-- With a fault latched the timers are frozen (40_cycle R147 step 4, D28). -/
theorem runTimers_of_fault {s : State} (h : s.latch ≠ none) : runTimers s = s :=
  if_neg fun hnone => h (Option.isNone_iff_eq_none.1 hnone)

/-- The timer decrements of a tick write the timers and their domain's accumulator. -/
theorem runTimers_frame (s : State) : runTimers s = { s with
    delayTimer := (runTimers s).delayTimer
    soundTimer := (runTimers s).soundTimer
    tacc := (runTimers s).tacc } := by
  by_cases h : s.latch = none
  · obtain ⟨hframe, -, -⟩ := timerLoop_spec (s := s) rfl
    rw [runTimers_of_no_fault h, hframe]
  · rw [runTimers_of_fault h]

@[simp] theorem runTimers_latch (s : State) : (runTimers s).latch = s.latch := by
  rw [runTimers_frame]

@[simp] theorem runTimers_acc (s : State) : (runTimers s).acc = s.acc := by
  rw [runTimers_frame]

@[simp] theorem runTimers_tickCount (s : State) : (runTimers s).tickCount = s.tickCount := by
  rw [runTimers_frame]

/-- With no fault latched each timer goes down by the periods that fit, and the remainder stays. -/
theorem runTimers_spec {s : State} (h : s.latch = none) :
    (runTimers s).tacc = s.tacc % s.params.timerPeriod ∧
    (runTimers s).delayTimer.toNat = s.delayTimer.toNat - s.tacc / s.params.timerPeriod ∧
    (runTimers s).soundTimer.toNat = s.soundTimer.toNat - s.tacc / s.params.timerPeriod := by
  obtain ⟨hframe, hdelay, hsound⟩ := timerLoop_spec (s := s) rfl
  rw [runTimers_of_no_fault h]
  exact ⟨by rw [hframe], hdelay, hsound⟩

/-- When a tick's cycles are done, the decrements due are as many timer steps, and lead to the tick's end
(40_cycle R149, R152; log entry 5). -/
theorem run_timerLoop {n : Nat} {s : State} (ha : s.active = true) (hc : s.cycleDue = false)
    (hpos : 0 < s.params.timerPeriod) (h : s.tacc / s.params.timerPeriod = n) :
    core.run n (finishTickIfOver s) = .next (finishTick (timerLoop n s)) := by
  induction n generalizing s with
  | zero =>
    have hnone : s.decrementDue = false :=
      not_decrementDue_iff.2 ((Nat.div_eq_zero_iff_lt hpos).1 h)
    rw [finishTickIfOver_of_over (tickOver_iff.2 (.inr ⟨hc, hnone⟩))]
    rfl
  | succ n ih =>
    obtain ⟨hdue, hrest⟩ := timerTurn_due h
    have hover := not_tickOver_of_decrementDue (active_iff.1 ha).1 hdue
    rw [finishTickIfOver_of_not_over hover, run_succ (step_timer ha hc hdue), timerLoop, if_pos hdue]
    exact ih (s := timerTurn s) ha hc hpos hrest

/-! ### A tick (40_cycle R147) -/

/-- A tick of an active machine that goes on is the turns of its loop from its opening, then its timer
decrements, then its last line. -/
theorem tick_cases {s t : State} {dt : Nat} (ha : s.active = true)
    (hpos : 0 < s.params.instrPeriod) (h : tick dt s = .next t) :
    ∃ k u, CycleTurns k (openTick dt s) u ∧ (u.latch = none → u.cycleDue = false) ∧
      t = finishTick (runTimers u) := by
  rw [tick, if_pos ha] at h
  obtain ⟨u, hloop, ht⟩ := andThen_eq_next.1 h
  obtain ⟨k, hturns, hend⟩ := cycleTurns_of_tickLoop (s := openTick dt s) hpos le_rfl hloop
  cases ht
  exact ⟨k, u, hturns, hend, rfl⟩

/-- A tick of an active machine in which no cycle is due goes straight on to the timers. -/
theorem tick_of_no_cycle {s : State} {dt : Nat} (ha : s.active = true)
    (hlt : s.acc + dt < s.params.instrPeriod) :
    tick dt s = .next (finishTick (runTimers (openTick dt s))) := by
  rw [tick, if_pos ha, openTick_acc, Nat.div_eq_of_lt hlt]
  rfl

/-! ### The obligations -/

/-- Settles O11: without a fault by `exec_pc_add_two`, and a raised fault leaves pc. -/
theorem nextPcIsTheTablesEntry : Obligations.NextPcIsTheTablesEntry := by
  intro i s t hs h
  refine ⟨fun hl => ?_, fun hl => ?_⟩
  · rw [advance_pc, hl]
    exact exec_pc_add_two h hl
  · obtain ⟨k, hk⟩ := Option.ne_none_iff_exists'.1 hl
    obtain ⟨-, rfl⟩ := exec_eq_raiseFault hs h hk
    rfl

/-- Settles O24 by `exec_eq_raiseFault`. -/
theorem onlyCallsAndReturnsFaultAndPrecisely : Obligations.OnlyCallsAndReturnsFaultAndPrecisely := by
  intro i s t k hs h ht
  obtain ⟨hraise, heq⟩ := exec_eq_raiseFault hs h ht
  exact ⟨heq, hraise⟩

/-- Settles O8: the instruction step, with the fetch of `fetch_spendPeriod` and a word that decodes. -/
theorem stepRunsTheDecodedInstruction : Obligations.StepRunsTheDecodedInstruction := by
  intro s i ha hc hi
  rw [step_cycle ha hc, instructionStep_eq, fetch_spendPeriod]
  simp only [hi, dispatch]
  exact andThen_assoc _ _ _

/-- Settles O12: both are what `inactiveTick` does. -/
theorem inactiveMachineOnlyLetsTimePass : Obligations.InactiveMachineOnlyLetsTimePass := by
  intro s ha
  refine ⟨fun dt => ?_, Config.tickTime s.timeDraws, step_inactive ha⟩
  rw [tick, ha]
  rfl

/-- Settles O13, by induction on the length of the run: every step is that of an inactive machine. -/
theorem latchedFaultFreezesEveryRun : Obligations.LatchedFaultFreezesEveryRun := by
  intro s n hl
  induction n generalizing s with
  | zero => exact ⟨s, rfl, rfl, rfl, rfl, rfl, rfl, rfl, rfl, rfl, rfl, rfl, rfl⟩
  | succ n ih =>
    rw [run_succ (step_inactive (inactive_of_latch hl))]
    exact ih (inactiveStep s) hl

/-- Settles O18 by `decrementTimer_toNat`, of each timer. -/
theorem timerDecrementStopsAtZero : Obligations.TimerDecrementStopsAtZero :=
  fun s => ⟨_, rfl, rfl, decrementTimer_toNat s.delayTimer, decrementTimer_toNat s.soundTimer⟩

/-- Settles O60: whether the step ends the tick is whether it leaves a period in either accumulator. -/
theorem stepsWithoutACycleDecrementOnceOrOpenATick :
    Obligations.StepsWithoutACycleDecrementOnceOrOpenATick := by
  intro s ha hc
  have hlatch := (active_iff.1 ha).1
  have hacc := not_cycleDue_iff.1 hc
  refine ⟨fun hd => ⟨_, step_timer ha hc hd, rfl, ?_⟩,
    fun hd => ⟨Config.tickTime s.timeDraws, _, step_time ha hc hd, timeStep_frame s, ?_⟩⟩
  · have hover : (timerTurn s).tickOver = true ↔
        s.tacc - s.params.timerPeriod < s.params.timerPeriod :=
      (tickOver_iff_lt (s := timerTurn s) hlatch).trans (and_iff_right hacc)
    simp only [timerStep_tickCount, timerStep_lastTickCount, hover]
    split <;> exact ⟨rfl, rfl⟩
  · split
    next hnone =>
      obtain ⟨hi, ht⟩ := hnone
      have hover := (tickOver_iff_lt (s := openTick _ s) hlatch).2 ⟨hi, ht⟩
      rw [timeStep, finishTickIfOver_of_over hover, tick_of_no_cycle ha hi,
        runTimers_of_no_fault (s := openTick _ s) hlatch, openTick_tacc, openTick_params,
        Nat.div_eq_of_lt ht]
      exact ⟨rfl, rfl⟩
    next hsome =>
      have hover := mt (tickOver_iff_lt (s := openTick _ s) hlatch).1 hsome
      rw [timeStep_lastTickCount, if_neg hover]

/-- Settles O15: with no cycle due a tick is its timer decrements. -/
theorem tickWithoutCyclesOnlyCountsTimersDown :
    Obligations.TickWithoutCyclesOnlyCountsTimersDown := by
  intro s dt ha hlt
  obtain ⟨htacc, hdelay, hsound⟩ := runTimers_spec (s := openTick dt s) (active_iff.1 ha).1
  refine ⟨_, tick_of_no_cycle ha hlt, ?_, htacc, hdelay, hsound⟩
  rw [runTimers_frame]
  rfl

/-- Settles O14: the count and the accumulators are those of the turns of the loop, the timers those of
`runTimers_spec`; the instruction steps are those of `CycleTurns.exists_run`. -/
theorem tickRunsAsManyCyclesAsPeriodsFit : Obligations.TickRunsAsManyCyclesAsPeriodsFit := by
  intro s t dt ha hpos h
  obtain ⟨hs, hclosed⟩ := active_iff.1 ha
  obtain ⟨k, u, hturns, hend, rfl⟩ := tick_cases ha hpos h
  obtain ⟨hparams, -, hspent, htacc, hcount⟩ := hturns.scheduling_of_openTick
  obtain ⟨v, hrun, hlatch, hdelay, hsound⟩ := hturns.exists_run hclosed
  simp only [finishTick_lastTickCount, finishTick_latch, finishTick_acc, finishTick_tacc,
    finishTick_delayTimer, finishTick_soundTimer, runTimers_latch, runTimers_acc,
    runTimers_tickCount, hcount]
  by_cases hu : u.latch = none
  · obtain ⟨hrest, hdelay', hsound'⟩ := runTimers_spec hu
    have hlt := not_cycleDue_iff.1 (hend hu)
    rw [hparams] at hlt
    obtain ⟨hdiv, hmod⟩ : (s.acc + dt) / s.params.instrPeriod = k ∧
        (s.acc + dt) % s.params.instrPeriod = u.acc :=
      (Nat.div_mod_unique hpos).2 ⟨by rw [← hspent, Nat.add_comm, Nat.mul_comm], hlt⟩
    rw [hparams, htacc] at hrest hdelay' hsound'
    exact ⟨fun _ => ⟨hdiv.symm, hmod.symm, hrest⟩, fun hf => absurd hu hf, v, hrun, hlatch,
      fun _ => ⟨hdelay ▸ hdelay', hsound ▸ hsound'⟩, fun hf => absurd hu hf⟩
  · rw [runTimers_of_fault hu]
    exact ⟨fun hn => absurd hn hu, fun _ => ⟨hturns.pos_of_latch hs hu, hspent, htacc⟩, v, hrun,
      hlatch, fun hn => absurd hn hu, fun _ => ⟨hdelay.symm, hsound.symm⟩⟩

/-- Settles O16: the turns of the loop as instruction steps, then the decrements as timer steps. -/
theorem tickIsARunOfSteps : Obligations.TickIsARunOfSteps := by
  intro s t dt ha hinstr htimer hdue h
  obtain ⟨hs, hclosed⟩ := active_iff.1 ha
  obtain ⟨k, u, hturns, hend, rfl⟩ := tick_cases ha hinstr h
  obtain ⟨hparams, huclosed, -, htacc, hcount⟩ := hturns.scheduling_of_openTick
  have hover : (openTick dt s).tickOver = false := by
    rw [← Bool.not_eq_true, tickOver_iff_lt (s := openTick dt s) hs]
    simp only [openTick_acc, openTick_tacc, openTick_params]
    omega
  have hrun := hturns.run hclosed hover
  simp only [finishTick_lastTickCount, finishTick_latch, runTimers_latch, runTimers_tickCount, hcount]
  by_cases hu : u.latch = none
  · have hactive : u.active = true := active_iff.2 ⟨hu, huclosed.trans hclosed⟩
    rw [if_pos hu, run_add hrun, ← htacc, ← hparams, runTimers_of_no_fault hu]
    exact run_timerLoop hactive (hend hu) (hparams ▸ htimer) rfl
  · rw [if_neg hu, runTimers_of_fault hu]
    rwa [finishTickIfOver_of_over (tickOver_iff.2 (.inl hu))] at hrun

end Sys2Proof.Machine

/-! # Control flow (41_control_flow)

The family `41_control_flow`: the return (O31), the jump (O33), the calls (O34), a call and its
return together (O35), and the register and immediate skips (O36). -/

namespace Sys2Proof.Machine

/-! ### Targets as numbers (41_control_flow R172, R178) -/

/-- Two below a target, modulo 2^16 (40_cycle R143). -/
theorem sub_two_toNat (t : Word) : (t - 2).toNat = (t.toNat + 65534) % 65536 := by
  rw [BitVec.toNat_sub, Nat.add_comm]
  rfl

/-- Zero extension keeps the number (30_encoding R102). -/
theorem zextAddr_toNat (nnn : Addr) : (zextAddr nnn).toNat = nnn.toNat :=
  BitVec.toNat_setWidth_of_le (by decide)

/-- Zero extension keeps the number (00_scope R13). -/
theorem zextByte_toNat (v : Byte) : (zextByte v).toNat = v.toNat :=
  BitVec.toNat_setWidth_of_le (by decide)

/-- The largest target of Bnnn, 0xFF + 0xFFF, is a 16-bit word, so the sum does not wrap. -/
theorem callV0Target_toNat (s : State) (nnn : Addr) :
    (s.callV0Target nnn).toNat = (s.reg 0).toNat + nnn.toNat := by
  have hv : (s.reg 0).toNat < 256 := (s.reg 0).isLt
  have hn : nnn.toNat < 4096 := nnn.isLt
  rw [State.callV0Target, BitVec.toNat_add, zextByte_toNat, zextAddr_toNat]
  exact Nat.mod_eq_of_lt (by omega)

/-! ### Calls (41_control_flow R173, R178) -/

/-- A call with a free slot puts its own address there and transfers. -/
theorem callTo_of_lt (t w : Word) {s : State} (h : s.sp.toNat < 16) : callTo t w s =
    { s with stack := s.stack.setIfInBounds s.sp.toNat s.pc, sp := s.sp + 1, pc := t - 2 } :=
  ((callTo_eq t w s).resolve_right fun hfull => absurd hfull.1 (Nat.not_le.2 h)).2

/-- A call with no free slot. -/
theorem callTo_of_le (t w : Word) {s : State} (h : 16 ≤ s.sp.toNat) :
    callTo t w s = raiseFault .stackOverflow w s :=
  ((callTo_eq t w s).resolve_left fun hfree => absurd hfree.1 (Nat.not_lt.2 h)).2

/-- What either call instruction leaves on the stack, whatever its target. -/
theorem exec_call_stack {i : Instr} {s t : State} {nnn : Addr}
    (hi : i = .call nnn ∨ i = .callV0 nnn) (hfree : s.sp.toNat < 16) (h : exec i s = .next t) :
    t.stack = s.stack.setIfInBounds s.sp.toNat s.pc ∧ t.sp = s.sp + 1 := by
  rcases hi with rfl | rfl
  all_goals
    cases h
    rw [callTo_of_lt _ _ hfree]
    exact ⟨rfl, rfl⟩

/-! ### Returns (41_control_flow R171) -/

/-- A return goes on at the address that its pop answers. -/
theorem execRet_of_pop {s t : State} {v : Word} (h : pop s = .ok v t) :
    execRet s = .next { t with pc := v } := by
  rw [execRet, h]

/-- A return on the empty stack. -/
theorem execRet_of_empty {s : State} (h : s.sp = 0) :
    execRet s = .next (raiseFault .stackUnderflow (encode .ret) s) := by
  rw [execRet, pop_underflow h]

/-- The top of the stack is the topmost occupied slot, under that slot's own name. -/
theorem stackTop_eq_getElem {s : State} {j : Nat} (hj : j < 16) (h : j + 1 = s.sp.toNat) :
    s.stackTop = s.stack[j] := by
  rw [State.stackTop, ← h, Nat.add_sub_cancel]
  simp [hj]

/-! ### Skips (41_control_flow R174 to R177) -/

/-- Where two values are equal, a skip on equality is taken and one on inequality writes nothing. -/
theorem skips_of_eq {a b : Byte} (s : State) (h : a = b) :
    (Host.Outcome.next (skipIf (a == b) s) : Result) = .next { s with pc := s.pc + 2 } ∧
      (Host.Outcome.next (skipIf (a != b) s) : Result) = .next s := by
  rw [beq_iff_eq.2 h, bne, beq_iff_eq.2 h]
  exact ⟨rfl, rfl⟩

/-- Where two values differ, a skip on equality writes nothing and one on inequality is taken. -/
theorem skips_of_ne {a b : Byte} (s : State) (h : a ≠ b) :
    (Host.Outcome.next (skipIf (a == b) s) : Result) = .next s ∧
      (Host.Outcome.next (skipIf (a != b) s) : Result) = .next { s with pc := s.pc + 2 } := by
  rw [beq_eq_false_iff_ne.2 h, bne_iff_ne.2 h]
  exact ⟨rfl, rfl⟩

/-! ### The obligations -/

/-- Settles O31: a return reads the topmost occupied slot, or finds none. -/
theorem retResumesAtThePoppedAddress : Obligations.RetResumesAtThePoppedAddress := by
  refine ⟨decodesRow .ret, fun s hpos hle => ?_,
    fun s hempty => ⟨_, execRet_of_empty hempty, rfl⟩⟩
  obtain ⟨t, ht⟩ := execRet_next hle
  rcases execRet_cases ht with ⟨hempty, -⟩ | ⟨-, -, rfl⟩
  · rw [hempty] at hpos
    cases hpos
  · exact ⟨_, ht, rfl, fun j hj => stackTop_eq_getElem j.isLt hj⟩

/-- Settles O33: the bias is `sub_two_toNat`, of the zero-extended address. -/
theorem jumpLeavesTheBiasedTarget : Obligations.JumpLeavesTheBiasedTarget := by
  refine ⟨decodesRow (.jp 0), fun s nnn => ⟨_, rfl, rfl, ?_⟩⟩
  rw [jumpTo_pc, sub_two_toNat, zextAddr_toNat]

/-- Settles O34: both calls push pc by `callTo_of_lt`, or overflow by `callTo_of_le`. -/
theorem callsPushTheirOwnAddress : Obligations.CallsPushTheirOwnAddress := by
  refine ⟨decodesRow (.call 0), decodesRow (.callV0 0),
    fun s nnn => ⟨fun hfree => ?_, fun hfull => ?_⟩⟩
  · refine ⟨_, _, congrArg Host.Outcome.next (callTo_of_lt _ _ hfree),
      congrArg Host.Outcome.next (callTo_of_lt _ _ hfree), rfl, rfl, fun j => ?_, ?_, ?_⟩
    · simp only [Vector.getElem_setIfInBounds, eq_comm]
    · exact (sub_two_toNat _).trans (by rw [zextAddr_toNat])
    · exact (sub_two_toNat _).trans (by rw [callV0Target_toNat])
  · exact ⟨_, _, congrArg Host.Outcome.next (callTo_of_le _ _ hfull),
      congrArg Host.Outcome.next (callTo_of_le _ _ hfull), rfl, rfl⟩

/-- Settles O35: the slot that the return pops is the one that the call wrote, and the slots below
it are others. -/
theorem returnComesBackToTheCallSite : Obligations.ReturnComesBackToTheCallSite := by
  intro s t u i nnn hi hfree h hstack hsp hlatch
  obtain ⟨hpushed, hcounted⟩ := exec_call_stack hi hfree h
  rw [hpushed] at hstack
  rw [hcounted] at hsp
  have htop : s.sp.toNat + 1 = u.sp.toNat := by
    rw [hsp]
    bv_omega
  refine ⟨_, execRet_of_pop (pop_top hfree htop), ?_, ?_, ?_, fun j hj => ?_⟩
  · simp [hstack]
  · simp [hstack, hlatch]
  · simp [hsp]
  · simp [hstack, hj.ne']

/-- Settles O36: each pair of skips compares two bytes, and one of the pair is taken. -/
theorem skipsAddOneInstructionWidth : Obligations.SkipsAddOneInstructionWidth :=
  ⟨decodesRow (.seImm 0 0), decodesRow (.sneImm 0 0), decodesRow (.seReg 0 0 0),
    decodesRow (.sneReg 0 0 0),
    fun s _ _ _ _ => ⟨skips_of_eq s, skips_of_ne s, skips_of_eq s, skips_of_ne s⟩⟩

end Sys2Proof.Machine

/-! # Loads, the register ALU, the index load and the random byte (42_load_alu)

The family `42_load_alu`: the immediates (O37), copy and logic (O38), the sum (O39), the differences
(O40), the shifts (O41), the index load (O42), and the random byte (O43). -/

namespace Sys2Proof.Machine

/-! ### Results and flags as numbers (42_load_alu R202, R207 to R211) -/

/-- A difference modulo 2^8, as the remainder of a natural number (R208). -/
theorem sub_eq_ofNat (a b : Byte) : a - b = BitVec.ofNat 8 (256 + a.toNat - b.toNat) := by
  have hb : b.toNat < 256 := b.isLt
  rw [BitVec.sub_def]
  exact congrArg _ (by omega)

/-- A shift to the right halves (R209). -/
theorem shiftRight_one_eq_ofNat (a : Byte) : a >>> 1 = BitVec.ofNat 8 (a.toNat / 2) := by
  have ha : a.toNat < 256 := a.isLt
  apply BitVec.eq_of_toNat_eq
  rw [BitVec.toNat_ushiftRight, Nat.shiftRight_eq_div_pow, BitVec.toNat_ofNat]
  omega

/-- A shift to the left doubles (R211). -/
theorem shiftLeft_one_eq_ofNat (a : Byte) : a <<< 1 = BitVec.ofNat 8 (2 * a.toNat) := by
  apply BitVec.eq_of_toNat_eq
  rw [BitVec.toNat_shiftLeft, Nat.shiftLeft_eq, BitVec.toNat_ofNat, Nat.mul_comm]

/-- A flag is 1 exactly where its condition holds (10_state R41). -/
theorem flagByte_decide (p : Prop) [Decidable p] : flagByte (decide p) = if p then 1 else 0 := by
  simp only [flagByte, decide_eq_true_eq]

/-- The bit that 8xy6 shifts out is the remainder of the halving (R209). -/
theorem shiftedOutRight_eq_ofNat (a : Byte) : shiftedOutRight a = BitVec.ofNat 8 (a.toNat % 2) := by
  apply BitVec.eq_of_toNat_eq
  rw [shiftedOutRight, BitVec.toNat_and, BitVec.toNat_ofNat]
  have hbit : a.toNat &&& 1 = a.toNat % 2 := Nat.and_one_is_mod _
  exact hbit.trans (by omega)

/-- The bit that 8xyE shifts out is the 128 of the byte (R211). -/
theorem shiftedOutLeft_eq_ofNat (a : Byte) : shiftedOutLeft a = BitVec.ofNat 8 (a.toNat / 128) := by
  have ha : a.toNat < 256 := a.isLt
  apply BitVec.eq_of_toNat_eq
  rw [shiftedOutLeft, BitVec.toNat_and, BitVec.toNat_ushiftRight, Nat.shiftRight_eq_div_pow,
    BitVec.toNat_ofNat]
  have hbit : a.toNat / 2 ^ 7 &&& 1 = a.toNat / 2 ^ 7 % 2 := Nat.and_one_is_mod _
  exact hbit.trans (by omega)

/-- Shifting the flag that 8xy6 has just written leaves 0 (R209, x = F). -/
theorem shiftedOutRight_shiftRight (a : Byte) : shiftedOutRight a >>> 1 = 0 := by
  have hbit : a.toNat % 2 % 2 ^ 8 / 2 = 0 := by omega
  rw [shiftRight_one_eq_ofNat, shiftedOutRight_eq_ofNat, BitVec.toNat_ofNat, hbit]
  rfl

/-- Shifting the flag that 8xyE has just written leaves 2 or 0 (R211, x = F). -/
theorem shiftedOutLeft_shiftLeft (a : Byte) :
    shiftedOutLeft a <<< 1 = BitVec.ofNat 8 (2 * (a.toNat / 128)) := by
  have ha : a.toNat < 256 := a.isLt
  rw [shiftLeft_one_eq_ofNat, shiftedOutLeft_eq_ofNat, BitVec.toNat_ofNat]
  exact congrArg (BitVec.ofNat 8) (by omega)

/-! ### Instructions that write registers alone (42_load_alu R200) -/

/-- The register file after one write, by the register read. -/
theorem reg_setReg_eq_ite (s : State) (x r : Reg) (v : Byte) :
    (s.setReg x v).reg r = if r = x then v else s.reg r := by
  simp only [setReg_reg, eq_comm]

/-- An instruction that writes V[x] alone. -/
theorem completesInRegs_setReg {i : Instr} {s : State} {x : Reg} {v : Byte}
    (h : exec i s = .next (s.setReg x v)) :
    CompletesInRegs i s (fun r => if r = x then v else s.reg r) :=
  ⟨_, h, rfl, fun r => reg_setReg_eq_ite s x r v⟩

/-- An instruction that writes a result and then the flag, so that with x = FLAG the flag stays. -/
theorem completesInRegs_setResultThenFlag {i : Instr} {s : State} {x : Reg} {v f : Byte}
    (h : exec i s = .next (s.setResultThenFlag x v f)) :
    CompletesInRegs i s
      (fun r => if r = s.params.flag then f else if r = x then v else s.reg r) := by
  refine ⟨_, h, rfl, fun r => ?_⟩
  rw [State.setResultThenFlag, State.setFlag, reg_setReg_eq_ite, reg_setReg_eq_ite, setReg_params]

/-- An instruction that writes the flag and then `g` of what V[x] now holds, so that with x = FLAG
it is `g` of the flag that stays. -/
theorem completesInRegs_setFlag_setReg {i : Instr} {s : State} {x : Reg} {f : Byte}
    {g : Byte → Byte} (h : exec i s = .next ((s.setFlag f).setReg x (g ((s.setFlag f).reg x)))) :
    CompletesInRegs i s (fun r =>
      if r = x then (if x = s.params.flag then g f else g (s.reg x))
      else if r = s.params.flag then f else s.reg r) := by
  refine ⟨_, h, rfl, fun r => ?_⟩
  rw [reg_setReg_eq_ite, State.setFlag, reg_setReg_eq_ite, reg_setReg_eq_ite, apply_ite g]

/-! ### The obligations -/

/-- Settles O37: both write V[x] alone; the byte sum is the sum modulo 2^8. -/
theorem immediateLoadAndAdd : Obligations.ImmediateLoadAndAdd := by
  refine ⟨decodesRow (.ldImm 0 0), decodesRow (.addImm 0 0),
    fun s x kk => ⟨completesInRegs_setReg rfl, ?_⟩⟩
  rw [← BitVec.add_def]
  exact completesInRegs_setReg rfl

/-- Settles O38: all four write V[x] alone. -/
theorem copyAndLogicWriteOneRegister : Obligations.CopyAndLogicWriteOneRegister :=
  ⟨decodesRow (.ldReg 0 0), decodesRow (.orReg 0 0), decodesRow (.andReg 0 0),
    decodesRow (.xorReg 0 0), fun _ _ _ => ⟨completesInRegs_setReg rfl, completesInRegs_setReg rfl,
      completesInRegs_setReg rfl, completesInRegs_setReg rfl⟩⟩

/-- Settles O39: the sum is written first and the carry second. -/
theorem addSetsTheCarry : Obligations.AddSetsTheCarry := by
  refine ⟨decodesRow (.addReg 0 0), fun s x y => ?_⟩
  rw [← BitVec.add_def, ← flagByte_decide]
  exact completesInRegs_setResultThenFlag rfl

/-- Settles O40: the difference is written first and the strict comparison second; 8xy7 is 8xy5 with
its operands swapped. -/
theorem subtractionsSetTheNoBorrowFlag : Obligations.SubtractionsSetTheNoBorrowFlag := by
  refine ⟨decodesRow (.subReg 0 0), decodesRow (.subnReg 0 0), fun s x y => ⟨?_, ?_⟩⟩
  all_goals
    rw [← sub_eq_ofNat, ← flagByte_decide]
    exact completesInRegs_setResultThenFlag rfl

/-- Settles O41: the bit shifted out is written first, and V[x] is read again for the shift. -/
theorem shiftsCaptureTheBitShiftedOut : Obligations.ShiftsCaptureTheBitShiftedOut := by
  refine ⟨decodesRow (.shr 0 0), decodesRow (.shl 0 0), fun s x y => ⟨?_, ?_⟩⟩
  · rw [← shiftedOutRight_shiftRight (s.reg x), ← shiftRight_one_eq_ofNat,
      ← shiftedOutRight_eq_ofNat]
    exact completesInRegs_setFlag_setReg (g := (· >>> 1)) rfl
  · rw [← shiftedOutLeft_shiftLeft, ← shiftLeft_one_eq_ofNat, ← shiftedOutLeft_eq_ofNat]
    exact completesInRegs_setFlag_setReg (g := (· <<< 1)) rfl

/-- Settles O42: the address is zero-extended. -/
theorem indexLoadZeroExtends : Obligations.IndexLoadZeroExtends :=
  ⟨decodesRow (.ldI 0), fun _ nnn => ⟨_, rfl, rfl, zextAddr_toNat nnn⟩⟩

/-- Settles O43: V[x] alone is written, after one draw. -/
theorem randomByteIsMasked : Obligations.RandomByteIsMasked := by
  refine ⟨decodesRow (.rnd 0 0), fun s x kk =>
    ⟨_, rfl, rfl, fun r => reg_setReg_eq_ite s.drawn x r _, fun hk => ?_⟩⟩
  rw [reg_setReg_eq_ite, if_pos rfl, hk]
  exact BitVec.and_zero

end Sys2Proof.Machine

/-! # The framebuffer (43_display)

The family `43_display`: clearing (O44), what a sprite draw does to each pixel, to VF and to the changed
flag (O45 to O48), and the host's operations on a pixel (O56) and on the grid (O57). -/

namespace Sys2Proof.Machine

/-! ### One pixel (43_display R251 to R253, R257) -/

/-- Reading a pixel after writing one. -/
theorem withPixel_pixel {fb : Framebuffer} (h : fb.wf = true) {x y : Nat} (hx : x < fb.width)
    (hy : y < fb.height) (a : Bool) {px : Nat} (hpx : px < fb.width) (py : Nat) :
    (fb.withPixel x y a).pixel px py = if px = x ∧ py = y then a else fb.pixel px py := by
  have hread : (fb.withPixel x y a).pixel px py =
      (fb.pix.set (fb.position x y) a).getD (fb.position px py) false := rfl
  rw [hread]
  by_cases hp : px = x ∧ py = y
  · obtain ⟨rfl, rfl⟩ := hp
    simp [List.getD_eq_getElem?_getD, position_lt h hx hy]
  · have hne : fb.position x y ≠ fb.position px py :=
      fun he => hp (position_inj hpx hx he.symm)
    rw [if_neg hp, List.getD_eq_getElem?_getD, List.getElem?_set_ne hne, Framebuffer.pixel,
      List.getD_eq_getElem?_getD]

/-- An inverted pixel flips, and every other one stays (R253). -/
theorem invertPixel_pixel_eq_xor {fb : Framebuffer} (h : fb.wf = true) {x y : Nat}
    (hx : x < fb.width) (hy : y < fb.height) {px : Nat} (hpx : px < fb.width) (py : Nat) :
    (fb.invertPixel x y).pixel px py = (fb.pixel px py ^^ decide (px = x ∧ py = y)) := by
  rw [invertPixel_pixel h hx hy hpx]
  by_cases hp : px = x ∧ py = y
  · obtain ⟨rfl, rfl⟩ := hp
    simp
  · have hp' : ¬(x = px ∧ y = py) := fun he => hp ⟨he.1.symm, he.2.symm⟩
    simp [hp, hp']

/-- Coordinates in range are below the mode's width and height (R257). -/
theorem toNat_lt_of_pixelInRange {x y : Int} {fb : Framebuffer} (h : pixelInRange x y fb = true) :
    x.toNat < fb.width ∧ y.toNat < fb.height := by
  simp only [pixelInRange, Framebuffer.inRange, Bool.and_eq_true, decide_eq_true_eq] at h
  exact h.2

theorem onPixel_of_inRange {x y : Int} {s : State} (h : pixelInRange x y s.fb = true)
    (f : Framebuffer → Framebuffer) : onPixel x y f s = { s with fb := f s.fb } :=
  if_pos h

theorem onPixel_of_not_inRange {x y : Int} {s : State} (h : pixelInRange x y s.fb = false)
    (f : Framebuffer → Framebuffer) : onPixel x y f s = s.report (.outOfBoundsPixel x y) :=
  if_neg (by simp [h])

/-! ### The whole grid (43_display R250, R254, R255) -/

@[simp] theorem clear_length (fb : Framebuffer) : fb.clear.pix.length = fb.pix.length :=
  List.length_map _

@[simp] theorem clear_pixel (fb : Framebuffer) (x y : Nat) : fb.clear.pixel x y = false := by
  simp [Framebuffer.pixel, Framebuffer.clear, List.getD_eq_getElem?_getD]

@[simp] theorem blank_pixel (w h x y : Nat) : (Framebuffer.blank w h).pixel x y = false := by
  simp only [Framebuffer.pixel, Framebuffer.blank, List.getD_eq_getElem?_getD,
    List.getElem?_replicate]
  split <;> rfl

theorem invertAll_getD {fb : Framebuffer} {k : Nat} (hk : k < fb.pix.length) :
    fb.invertAll.pix.getD k false = !fb.pix.getD k false := by
  simp [Framebuffer.invertAll, List.getD_eq_getElem?_getD, hk]

theorem invertAll_invertAll (fb : Framebuffer) :
    fb.invertAll.invertAll = { fb with changed := true } := by
  simp [Framebuffer.invertAll, Function.comp_def]

theorem modeWellFormed_iff {w h : Nat} : modeWellFormed w h = true ↔ 1 ≤ w ∧ 1 ≤ h := by
  simp [modeWellFormed]

/-! ### The sprite draw row by row (43_display R261) -/

/-- The framebuffer and the collision flag after `n` rows of a draw. -/
def drawnGrid (x0 y0 base n : Nat) (s : State) : Framebuffer × Bool :=
  ((drawRows x0 y0 base n s).1.fb, (drawRows x0 y0 base n s).2)

@[simp] theorem drawnGrid_zero (x0 y0 base : Nat) (s : State) :
    drawnGrid x0 y0 base 0 s = (s.fb, false) := rfl

/-- One more row draws its eight columns, from a byte and into a mode that the rows before it leave. -/
theorem drawnGrid_succ (x0 y0 base n : Nat) (s : State) :
    drawnGrid x0 y0 base (n + 1) s =
      drawColumns x0 ((y0 + n) % s.fb.height) (s.byteAt (base + n)) 8 (drawnGrid x0 y0 base n s) := by
  have hbyte : (drawRows x0 y0 base n s).1.byteAt (base + n) = s.byteAt (base + n) := by
    rw [drawRows_frame]
    rfl
  have hheight : (drawRows x0 y0 base n s).1.fb.height = s.fb.height := (drawRows_mode ..).2
  simp only [drawnGrid, drawRows, drawRow_eq, hbyte, hheight]

/-- The grid of a draw keeps its mode. -/
theorem drawnGrid_frame (x0 y0 base n : Nat) (s : State) :
    (drawnGrid x0 y0 base n s).1 = { s.fb with
      pix := (drawnGrid x0 y0 base n s).1.pix
      changed := (drawnGrid x0 y0 base n s).1.changed } := by
  obtain ⟨hwidth, hheight⟩ := drawRows_mode x0 y0 base n s
  simp only [← hwidth, ← hheight]
  rfl

theorem drawnGrid_length (x0 y0 base n : Nat) (s : State) :
    (drawnGrid x0 y0 base n s).1.pix.length = s.fb.pix.length :=
  drawRows_induct (P := fun fb => fb.pix.length = s.fb.pix.length)
    (fun fb px py h => (invertPixel_length fb px py).trans h) x0 y0 base n s rfl

/-- The framebuffer and the collision flag that Dxyn draws in `s`. -/
def drawnBy (x y : Reg) (n : Nibble) (s : State) : Framebuffer × Bool :=
  drawnGrid (s.reg x).toNat (s.reg y).toNat s.index.toNat n.toNat s

/-- A draw leaves the grid of its rows, reports their reads, and writes VF last. -/
theorem execDrw_eq (x y : Reg) (n : Nibble) (s : State) : execDrw x y n s =
    .next (State.setFlag
      { s with
        fb := (drawnBy x y n s).1
        reports := s.reports ++ spriteReports s s.index.toNat n.toNat }
      (collisionFlag (drawnBy x y n s).2)) :=
  congrArg (fun u : State => (.next (u.setFlag (collisionFlag (drawnBy x y n s).2)) : Result))
    (drawRows_frame ..)

/-- The framebuffer and VF after a draw. -/
theorem exec_drw_fb_flag {x y : Reg} {n : Nibble} {s t : State}
    (h : exec (.drw x y n) s = .next t) :
    t.fb = (drawnBy x y n s).1 ∧
    t.reg s.params.flag = collisionFlag (drawnBy x y n s).2 := by
  cases (execDrw_eq x y n s).symm.trans h
  exact ⟨rfl, (setFlag_reg ..).trans (if_pos rfl)⟩

/-- A draw changes pixels, the changed flag, VF and the reports of its reads alone. -/
theorem exec_drw_frame {x y : Reg} {n : Nibble} {s t : State}
    (h : exec (.drw x y n) s = .next t) : t = { s with
      regs := t.regs
      fb := { s.fb with pix := t.fb.pix, changed := t.fb.changed }
      reports := s.reports ++ spriteReports s s.index.toNat n.toNat } := by
  have hfb : t.fb = { s.fb with pix := t.fb.pix, changed := t.fb.changed } := by
    rw [(exec_drw_fb_flag h).1]
    exact drawnGrid_frame ..
  rw [← hfb]
  cases (execDrw_eq x y n s).symm.trans h
  rfl

theorem collisionFlag_eq_one_iff {c : Bool} : collisionFlag c = 1 ↔ c = true := by
  cases c <;> decide

theorem collisionFlag_cases (c : Bool) : collisionFlag c = 0 ∨ collisionFlag c = 1 := by
  cases c <;> decide

/-! ### What a draw inverts and what it flags (43_display R261) -/

/-- `d` is the grid `fb` after each pixel was inverted `hits` times, with the collision flag of a draw:
set iff an active pixel was inverted at least once or an inactive one at least twice. -/
structure InvertedBy (fb : Framebuffer) (hits : Nat → Nat → Nat) (d : Framebuffer × Bool) : Prop where
  wf : d.1.wf = true
  width : d.1.width = fb.width
  height : d.1.height = fb.height
  pixel : ∀ px py, px < fb.width → py < fb.height →
    d.1.pixel px py = (fb.pixel px py ^^ decide (hits px py % 2 = 1))
  collision : d.2 = true ↔ ∃ px py, px < fb.width ∧ py < fb.height ∧
    (if fb.pixel px py then 1 else 2) ≤ hits px py

/-- Before any inversion there is no collision. -/
theorem invertedBy_zero {fb : Framebuffer} (h : fb.wf = true) :
    InvertedBy fb (fun _ _ => 0) (fb, false) where
  wf := h
  width := rfl
  height := rfl
  pixel := by simp
  collision := by
    have hpos : ∀ px py, ¬ (if fb.pixel px py then 1 else 2) ≤ 0 := fun px py => by split <;> omega
    simp [hpos]

theorem InvertedBy.mode_pos {fb : Framebuffer} {hits : Nat → Nat → Nat} {d : Framebuffer × Bool}
    (h : InvertedBy fb hits d) : 0 < fb.width ∧ 0 < fb.height := by
  obtain ⟨hmode, -⟩ := Bool.and_eq_true_iff.1 h.wf
  rw [h.width, h.height] at hmode
  exact modeWellFormed_iff.1 hmode

/-- Reaching the collision threshold with one more inversion: it was reached, or the pixel that is now
inverted is active. -/
theorem threshold_le_succ_iff (active : Bool) (k : Nat) :
    (if active then 1 else 2) ≤ k + 1 ↔
      (if active then 1 else 2) ≤ k ∨ (active ^^ decide (k % 2 = 1)) = true := by
  cases active
  · simp only [Bool.false_eq_true, if_false, Bool.false_bne, decide_eq_true_eq]
    omega
  · simp only [if_true, Bool.true_bne, Bool.not_eq_true', decide_eq_false_iff_not]
    omega

/-- Inverting the in-range pixel (qx, qy) is one more hit on it. -/
theorem InvertedBy.invertPixel {fb : Framebuffer} {hits : Nat → Nat → Nat} {d : Framebuffer × Bool}
    (h : InvertedBy fb hits d) {qx qy : Nat} (hx : qx < fb.width) (hy : qy < fb.height) :
    InvertedBy fb (fun px py => hits px py + if px = qx ∧ py = qy then 1 else 0)
      (d.1.invertPixel qx qy, d.2 || d.1.pixel qx qy) where
  wf := invertPixel_wf h.wf qx qy
  width := h.width
  height := h.height
  pixel px py hpx hpy := by
    rw [invertPixel_pixel_eq_xor h.wf (h.width ▸ hx) (h.height ▸ hy) (h.width ▸ hpx),
      h.pixel px py hpx hpy]
    by_cases hp : px = qx ∧ py = qy
    · have hodd : decide ((hits px py + 1) % 2 = 1) = !decide (hits px py % 2 = 1) := by
        rw [← decide_not]
        exact decide_eq_decide.2 (by omega)
      rw [if_pos hp, decide_eq_true hp, hodd, Bool.xor_true, Bool.xor_not]
    · simp [hp]
  collision := by
    rw [Bool.or_eq_true, h.collision, h.pixel qx qy hx hy]
    constructor
    · rintro (⟨px, py, hpx, hpy, hle⟩ | hactive)
      · exact ⟨px, py, hpx, hpy, hle.trans (Nat.le_add_right _ _)⟩
      · refine ⟨qx, qy, hx, hy, ?_⟩
        rw [if_pos (⟨rfl, rfl⟩ : qx = qx ∧ qy = qy)]
        exact (threshold_le_succ_iff _ _).2 (.inr hactive)
    · rintro ⟨px, py, hpx, hpy, hle⟩
      by_cases hp : px = qx ∧ py = qy
      · rw [if_pos hp] at hle
        obtain ⟨rfl, rfl⟩ := hp
        exact ((threshold_le_succ_iff _ _).1 hle).imp_left fun hold => ⟨px, py, hpx, hpy, hold⟩
      · rw [if_neg hp] at hle
        exact .inl ⟨px, py, hpx, hpy, hle⟩

/-- The first `k` columns of row `r` hit each pixel as often as their bits land on it. -/
theorem InvertedBy.drawColumns {s : State} {hits : Nat → Nat → Nat} {d : Framebuffer × Bool}
    (h : InvertedBy s.fb hits d) (x0 y0 base r k : Nat) :
    InvertedBy s.fb
      (fun px py => hits px py + (List.range k).countP fun c => spriteHit s x0 y0 base px py r c)
      (drawColumns x0 ((y0 + r) % s.fb.height) (s.byteAt (base + r)) k d) := by
  obtain ⟨hw, hh⟩ := h.mode_pos
  induction k with
  | zero => exact h
  | succ k ih =>
    simp only [Machine.drawColumns, drawBit, ih.width, List.range_succ, List.countP_append,
      List.countP_singleton, ← Nat.add_assoc]
    split
    next hbit =>
      have hhit : ∀ px py, spriteHit s x0 y0 base px py r k = true ↔
          px = (x0 + k) % s.fb.width ∧ py = (y0 + r) % s.fb.height := fun px py => by
        simp only [spriteHit, hbit, Bool.true_and, Bool.and_eq_true, beq_iff_eq]
        exact and_congr eq_comm eq_comm
      simp only [hhit]
      exact ih.invertPixel (Nat.mod_lt _ hw) (Nat.mod_lt _ hh)
    next hbit =>
      have hmiss : ∀ px py, spriteHit s x0 y0 base px py r k = false := fun px py => by
        simp [spriteHit, hbit]
      simpa only [hmiss, Bool.false_eq_true, if_false, Nat.add_zero] using ih

/-- A draw of `n` rows hits each pixel as often as its bits land on it. -/
theorem invertedBy_drawnGrid {s : State} (h : s.fb.wf = true) (x0 y0 base n : Nat) :
    InvertedBy s.fb (spriteHits s x0 y0 base n) (drawnGrid x0 y0 base n s) := by
  induction n with
  | zero => exact invertedBy_zero h
  | succ n ih =>
    have hrow : spriteHits s x0 y0 base (n + 1) = fun px py => spriteHits s x0 y0 base n px py +
        (List.range 8).countP fun c => spriteHit s x0 y0 base px py n c := by
      funext px py
      simp only [spriteHits, List.range_succ (n := n), List.map_append, List.sum_append,
        List.map_singleton, List.sum_singleton]
    rw [hrow, drawnGrid_succ]
    exact ih.drawColumns x0 y0 base n 8

/-! ### What marks the framebuffer changed (43_display R263) -/

/-- The columns of a row mark the framebuffer iff one of their bits is 1. -/
theorem drawColumns_changed_iff (x0 py : Nat) (b : Byte) (k : Nat) (d : Framebuffer × Bool) :
    (drawColumns x0 py b k d).1.changed = true ↔
      d.1.changed = true ∨ ∃ c, c < k ∧ spriteBit b c = true := by
  induction k with
  | zero => simp [drawColumns]
  | succ k ih =>
    simp only [drawColumns, drawBit, Nat.exists_lt_succ_right, ← or_assoc, ← ih]
    by_cases hbit : spriteBit b k = true <;> simp [hbit]

theorem drawnGrid_changed_iff (x0 y0 base n : Nat) (s : State) :
    (drawnGrid x0 y0 base n s).1.changed = true ↔ s.fb.changed = true ∨
      ∃ r c, r < n ∧ c < 8 ∧ spriteBit (s.byteAt (base + r)) c = true := by
  induction n with
  | zero => simp
  | succ n ih =>
    simp only [drawnGrid_succ, drawColumns_changed_iff, ih, exists_and_left,
      Nat.exists_lt_succ_right, or_assoc]

/-- Columns whose bits are all 0 draw nothing. -/
theorem drawColumns_of_zero_bits (x0 py : Nat) (b : Byte) (d : Framebuffer × Bool) {k : Nat}
    (h : ∀ c, c < k → spriteBit b c = false) : drawColumns x0 py b k d = d := by
  induction k with
  | zero => rfl
  | succ k ih =>
    simp only [drawColumns, drawBit, h k k.lt_succ_self, Bool.false_eq_true, if_false]
    exact ih fun c hc => h c (hc.trans k.lt_succ_self)

/-- A sprite whose bits are all 0 leaves the grid and collides with nothing. -/
theorem drawnGrid_of_zero_bits (x0 y0 : Nat) {base n : Nat} {s : State}
    (h : ∀ r c, r < n → c < 8 → spriteBit (s.byteAt (base + r)) c = false) :
    drawnGrid x0 y0 base n s = (s.fb, false) := by
  induction n with
  | zero => rfl
  | succ n ih =>
    rw [drawnGrid_succ, drawColumns_of_zero_bits _ _ _ _ fun c => h n c n.lt_succ_self]
    exact ih fun r c hr => h r c (hr.trans n.lt_succ_self)

/-- So such a draw leaves the framebuffer and writes VF = 0. -/
theorem exec_drw_of_zero_bits {x y : Reg} {n : Nibble} {s t : State}
    (h : exec (.drw x y n) s = .next t)
    (hbits : ∀ r c, r < n.toNat → c < 8 → spriteBit (s.byteAt (s.index.toNat + r)) c = false) :
    t.fb = s.fb ∧ t.reg s.params.flag = 0 := by
  obtain ⟨hfb, hflag⟩ := exec_drw_fb_flag h
  rw [hfb, hflag, drawnBy, drawnGrid_of_zero_bits _ _ hbits]
  exact ⟨rfl, rfl⟩

/-! ### The obligations -/

/-- Settles O44: the cleared grid is as long as before and holds no active pixel. -/
theorem clearMakesEveryPixelInactive : Obligations.ClearMakesEveryPixelInactive :=
  ⟨decodesRow .cls, fun s => ⟨_, rfl, rfl, clear_length s.fb, clear_pixel s.fb⟩⟩

/-- Settles O45 by the frame of a draw, with the registers by `execDrw_reg` and n = 0 as a sprite
without a 1 bit. -/
theorem drawChangesPixelsAndTheFlagAlone : Obligations.DrawChangesPixelsAndTheFlagAlone := by
  refine ⟨decodesRow (.drw 0 0 0), fun s x y n => ?_⟩
  obtain ⟨t, h⟩ : ∃ t, exec (.drw x y n) s = .next t := ⟨_, execDrw_eq x y n s⟩
  obtain ⟨hfb, hflag⟩ := exec_drw_fb_flag h
  refine ⟨t, h, exec_drw_frame h, fun r hr => execDrw_reg h hr.symm, ?_, ?_, fun a => ?_, ?_⟩
  · rw [hflag]
    exact collisionFlag_cases _
  · rw [hfb]
    exact drawnGrid_length ..
  · rw [exec_drw_frame h]
    rfl
  · rintro rfl
    exact exec_drw_of_zero_bits h fun r _ hr => absurd hr r.not_lt_zero

/-- Settles O46 by the invariant of the draw. -/
theorem drawInvertsEachPixelOncePerHit : Obligations.DrawInvertsEachPixelOncePerHit := by
  intro s t x y n px py hwf hpx hpy h
  rw [(exec_drw_fb_flag h).1]
  exact (invertedBy_drawnGrid hwf ..).pixel px py hpx hpy

/-- Settles O47 by the invariant of the draw. -/
theorem drawFlagsEveryCollision : Obligations.DrawFlagsEveryCollision := by
  intro s t x y n hwf h
  rw [(exec_drw_fb_flag h).2, collisionFlag_eq_one_iff]
  exact (invertedBy_drawnGrid hwf ..).collision

/-- Settles O48: each 1 bit inverts a pixel, which marks the grid, and a 0 bit draws nothing. -/
theorem drawMarksChangedIffABitIsOne : Obligations.DrawMarksChangedIffABitIsOne := by
  intro s t x y n h
  refine ⟨?_, exec_drw_of_zero_bits h⟩
  rw [(exec_drw_fb_flag h).1]
  exact drawnGrid_changed_iff ..

/-- Settles O56: in range the operation is the framebuffer's own, out of range only a report. -/
theorem hostPixelOperationsAreBoundsChecked : Obligations.HostPixelOperationsAreBoundsChecked := by
  refine fun s x y a hwf => ⟨fun hin => ?_, fun hout => ⟨?_, ?_⟩⟩
  · obtain ⟨hx, hy⟩ := toNat_lt_of_pixelInRange hin
    have hget : getPixel x y s = s.fb.pixel x.toNat y.toNat := by rw [getPixel, hin, Bool.true_and]
    simp only [hostOp, onPixel_of_inRange hin]
    refine ⟨_, _, rfl, rfl, rfl, rfl, rfl, hget, fun px py hpx _ =>
      ⟨withPixel_pixel hwf hx hy a hpx py, invertPixel_pixel_eq_xor hwf hx hy hpx py⟩, ?_⟩
    rw [hget]
    simp [Framebuffer.setPixel]
  · rw [getPixel, hout, Bool.false_and]
  · rintro o (rfl | rfl | rfl) <;> simp only [hostOp, onPixel_of_not_inRange hout]

/-- Settles O57 by the rules of the operations on the grid. -/
theorem hostGridOperations : Obligations.HostGridOperations := by
  refine fun s w h => ⟨⟨_, _, rfl, rfl, ?_, rfl, fun k => invertAll_getD⟩, fun hw hh => ?_,
    fun hnone => if_neg ?_, ⟨_, rfl, rfl, clear_length s.fb, clear_pixel s.fb⟩, rfl, rfl, rfl⟩
  · rw [invertAll_invertAll]
  · have hmode := modeWellFormed_iff.2 ⟨hw, hh⟩
    exact ⟨_, if_pos hmode, rfl, rfl, rfl, blank_wf hmode, rfl, blank_pixel w h⟩
  · rw [modeWellFormed_iff]
    omega

end Sys2Proof.Machine

/-! # Keys, timers, index arithmetic, BCD and block transfers (44_input_timer_misc)

The family `44_input_timer_misc`: the key skips (O49), the timer moves (O50), the key wait (O51), the
index arithmetic (O52), the decimal digits (O53), and the block store and load (O54, O55). -/

namespace Sys2Proof.Machine

/-! ### Keys (44_input_timer_misc R290) -/

/-- A skip on the negated condition is taken where the condition fails. -/
theorem skipIf_not (c : Bool) (s : State) :
    skipIf (!c) s = { s with pc := if c = true then s.pc else s.pc + 2 } := by
  cases c <;> rfl

/-- A key that a poll answers is one of the machine's NKEYS keys. -/
theorem keyWaitPoll_lt {s : State} {k : Byte} (h : s.keyWaitPoll = some k) :
    k.toNat < s.params.nkeys := by
  obtain ⟨-, hk⟩ := Option.filter_eq_some_iff.1 h
  exact of_decide_eq_true hk

/-- A key wait completes, with a key or with none. -/
theorem exec_ldVxK_next (x : Reg) (s : State) : ∃ t, exec (.ldVxK x) s = .next t := by
  show ∃ t, execLdVxK x s = .next t
  unfold execLdVxK
  cases s.keyWaitPoll with
  | none => exact ⟨_, rfl⟩
  | some k => exact ⟨_, rfl⟩

/-! ### Index arithmetic as numbers (44_input_timer_misc R297, R298) -/

/-- The low nibble of a byte is its remainder. -/
theorem and_lowNibble_toNat (v : Byte) : (v &&& 0x0F).toNat = v.toNat % 16 := by
  rw [BitVec.toNat_and]
  exact Nat.and_two_pow_sub_one_eq_mod v.toNat 4

/-- The glyph address is that of the digit `V[x] mod 16`, modulo 2^16. -/
theorem glyphAddress_toNat (p : Params) (v : Byte) : (glyphAddress p v).toNat =
    (p.fontBase + p.fontStride * (v.toNat % 16)) % 65536 := by
  rw [glyphAddress, BitVec.toNat_ofNat, and_lowNibble_toNat]

/-- I plus a byte, modulo 2^16. -/
theorem index_add_zextByte_toNat (i : Word) (v : Byte) :
    (i + zextByte v).toNat = (i.toNat + v.toNat) % 65536 := by
  rw [BitVec.toNat_add, zextByte_toNat]

/-! ### Decimal digits (44_input_timer_misc R299) -/

/-- A number that is at most a byte is that byte's number. -/
theorem byte_ofNat_toNat {n : Nat} {v : Byte} (h : n ≤ v.toNat) : (BitVec.ofNat 8 n).toNat = n :=
  Nat.mod_eq_of_lt (Nat.lt_of_le_of_lt h v.isLt)

theorem hundredsDigit_toNat (v : Byte) : (hundredsDigit v).toNat = v.toNat / 100 :=
  byte_ofNat_toNat (Nat.div_le_self ..)

theorem tensDigit_toNat (v : Byte) : (tensDigit v).toNat = v.toNat / 10 % 10 :=
  byte_ofNat_toNat ((Nat.mod_le ..).trans (Nat.div_le_self ..))

theorem onesDigit_toNat (v : Byte) : (onesDigit v).toNat = v.toNat % 10 :=
  byte_ofNat_toNat (Nat.mod_le ..)

/-- What every address reads after Fx33, as a number: the three addresses differ, so that the order in
which they are told apart is free. -/
theorem storeDigits_byteAt_toNat {s : State} (hm : s.mem.wf = true) (v : Byte) (a : Nat) :
    ((storeDigits v s).byteAt a).toNat =
      if s.params.memSize ≤ a then 0
      else if a = s.index.toNat then v.toNat / 100
      else if a = s.index.toNat + 1 then v.toNat / 10 % 10
      else if a = s.index.toNat + 2 then v.toNat % 10
      else (s.byteAt a).toNat := by
  rw [storeDigits_byteAt hm]
  by_cases hle : s.params.memSize ≤ a
  · simp [not_inMemory_iff.2 hle, byteAt_of_le hle, hle]
  · simp only [inMemory_iff.2 (Nat.lt_of_not_le hle), hle, true_and, if_false, State.dataAddress,
      Nat.add_zero, apply_ite BitVec.toNat, hundredsDigit_toNat, tensDigit_toNat, onesDigit_toNat]
    split_ifs <;> omega

/-! ### The block transfers from register 0 on (44_input_timer_misc R300, R301) -/

/-- Fx55 leaves register r at I + r, for each r up to x whose address is in range. -/
theorem storeBlock_byteAt_of_le {s : State} (hm : s.mem.wf = true) {x r : Reg}
    (hr : r.toNat ≤ x.toNat) (h : s.index.toNat + r.toNat < s.params.memSize) :
    (storeBlock (blockLength x) s).byteAt (s.index.toNat + r.toNat) = s.reg r := by
  have hlt : r.toNat < blockLength x := Nat.lt_succ_of_le hr
  have hreg : regOfNat (s.index.toNat + r.toNat - s.index.toNat) = r := by
    rw [Nat.add_sub_cancel_left]
    exact BitVec.ofNat_toNat ..
  rw [(storeBlock_spec hm _).2, if_pos, State.dataAddress, Nat.add_zero, hreg]
  exact ⟨Nat.le_add_right .., Nat.add_lt_add_left hlt _, inMemory_iff.2 h⟩

/-- Fx55 leaves every address below I, above I + x or out of range. -/
theorem storeBlock_byteAt_of_outside {s : State} (hm : s.mem.wf = true) {x : Reg} {a : Nat}
    (h : a < s.index.toNat ∨ s.index.toNat + x.toNat < a ∨ s.params.memSize ≤ a) :
    (storeBlock (blockLength x) s).byteAt a = s.byteAt a := by
  rw [(storeBlock_spec hm _).2, if_neg]
  rw [inMemory_iff, State.dataAddress, State.dataAddress, blockLength]
  omega

/-- Fx65 leaves in each register up to x the byte at I plus its number, and the registers above. -/
theorem loadBlock_blockLength_reg (s : State) (x r : Reg) :
    (loadBlock (blockLength x) s).reg r =
      if r.toNat ≤ x.toNat then s.byteAt (s.index.toNat + r.toNat) else s.reg r := by
  rw [loadBlock_reg (k := blockLength x) x.isLt, blockLength, State.dataAddress]
  simp only [Nat.lt_succ_iff]

/-! ### The obligations -/

/-- Settles O49: the two skips test one answer, the second its negation. -/
theorem keySkipsFollowTheAnswer : Obligations.KeySkipsFollowTheAnswer :=
  ⟨decodesRow (.skp 0), decodesRow (.sknp 0),
    fun s _ => ⟨rfl, congrArg Host.Outcome.next (skipIf_not _ s.drawn)⟩⟩

/-- Settles O50: Fx07 writes V[x] alone, and the two writes of a timer are the model's own. -/
theorem timerMovesCopyOneByte : Obligations.TimerMovesCopyOneByte :=
  ⟨decodesRow (.ldVxDt 0), decodesRow (.ldDtVx 0), decodesRow (.ldStVx 0),
    fun _ _ => ⟨completesInRegs_setReg rfl, rfl, rfl⟩⟩

/-- Settles O51 by what a key wait can do. -/
theorem keyWaitPollsOncePerCycle : Obligations.KeyWaitPollsOncePerCycle := by
  refine ⟨decodesRow (.ldVxK 0), fun s x => ?_⟩
  obtain ⟨t, ht⟩ := exec_ldVxK_next x s
  refine ⟨t, ht, ?_⟩
  rcases execLdVxK_cases ht with ⟨hnone, rfl⟩ | ⟨k, hsome, rfl⟩
  · rw [hnone]
    exact ⟨rfl, BitVec.sub_add_cancel s.pc 2⟩
  · rw [hsome]
    exact ⟨rfl, keyWaitPoll_lt hsome, fun r => reg_setReg_eq_ite s.drawn x r k⟩

/-- Settles O52: both write I alone, the sum and the glyph address each modulo 2^16. -/
theorem indexArithmeticWraps : Obligations.IndexArithmeticWraps :=
  ⟨decodesRow (.addI 0), decodesRow (.ldF 0), fun _ _ =>
    ⟨⟨_, rfl, rfl, index_add_zextByte_toNat ..⟩, _, rfl, rfl, glyphAddress_toNat ..⟩⟩

/-- Settles O53 by the frame of Fx33's three writes and what they leave at each address. -/
theorem bcdStoresThreeDigits : Obligations.BcdStoresThreeDigits :=
  ⟨decodesRow (.ldB 0), fun s x hm =>
    ⟨_, rfl, storeDigits_frame (s.reg x) s, storeDigits_byteAt_toNat hm (s.reg x)⟩⟩

/-- Settles O54 by the block store's frame and what it leaves at each address. -/
theorem storeBlockWritesV0ToVx : Obligations.StoreBlockWritesV0ToVx :=
  ⟨decodesRow (.storeRegs 0), fun s x hm => ⟨_, rfl, storeBlock_frame (blockLength x) s,
    fun _ => storeBlock_byteAt_of_le hm, fun _ => storeBlock_byteAt_of_outside hm⟩⟩

/-- Settles O55 by the block load's frame and what it leaves in each register. -/
theorem loadBlockReadsV0ToVx : Obligations.LoadBlockReadsV0ToVx := by
  refine ⟨decodesRow (.loadRegs 0), fun s x => ⟨_, rfl, loadBlock_frame (blockLength x) s,
    loadBlock_blockLength_reg s x, byteAt_congr ?_ ?_⟩⟩
  all_goals rw [loadBlock_frame]

end Sys2Proof.Machine

/-! # Faults, the loader and the close signal (60_exceptions)

The family `60_exceptions`: the fault of an illegal word (O9), the step of a cycle and the timers (O17),
the report of a fault (O22), the loader's writes (O58), and the close signal (O59). -/

namespace Sys2Proof.Machine

/-! ### The cycle and the timers (40_cycle R149; 10_state R39, R40) -/

/-- With a fault latched a tick is over, and its step ends with its last line (40_cycle R147, D28). -/
theorem finishTickIfOver_of_fault {s : State} (h : s.latch ≠ none) :
    finishTickIfOver s = finishTick s :=
  finishTickIfOver_of_over (tickOver_iff.2 (.inl h))

/-- A dispatch writes DT where the word is Fx15 and ST where it is Fx18, and else neither. -/
theorem dispatch_timers {d : Except Reject Instr} {w : Word} {s t : State}
    (h : dispatch d w s = .next t) :
    ((∀ x, d ≠ .ok (.ldDtVx x)) → t.delayTimer = s.delayTimer) ∧
    ((∀ x, d ≠ .ok (.ldStVx x)) → t.soundTimer = s.soundTimer) := by
  cases d with
  | error r =>
    cases h
    exact ⟨fun _ => rfl, fun _ => rfl⟩
  | ok i =>
    obtain ⟨u, hu, ht⟩ := andThen_eq_next.1 h
    obtain ⟨-, hdelay, hsound⟩ := indexAndTimersHaveTheirOnlyWriters i s u hu
    cases ht
    exact ⟨fun hd => hdelay fun x hi => hd x (congrArg _ hi),
      fun hs => hsound fun x hi => hs x (congrArg _ hi)⟩

/-- The cycle of a turn is the dispatch of the word at pc, with the period spent and the reports of the
fetch added. -/
theorem cycle_spendPeriod (s : State) : cycle (spendPeriod s) =
    dispatch (decodeWord s.fetchedWord) s.fetchedWord
      { spendPeriod s with reports := s.reports ++ fetchReports s } := by
  rw [cycle, fetch_spendPeriod]

/-- A turn of a tick's loop writes the timers as its instruction does: no decrement runs in it. -/
theorem cycleTurn_timers {s t : State} (h : cycleTurn s = .next t) :
    ((∀ x, decodeWord s.fetchedWord ≠ .ok (.ldDtVx x)) → t.delayTimer = s.delayTimer) ∧
    ((∀ x, decodeWord s.fetchedWord ≠ .ok (.ldStVx x)) → t.soundTimer = s.soundTimer) := by
  obtain ⟨u, hu, ht⟩ := andThen_eq_next.1 h
  rw [cycle_spendPeriod] at hu
  have htimers := dispatch_timers hu
  cases ht
  exact htimers

/-- A turn of a tick's loop leaves the count of the most recent tick, which the last line of a tick
writes. -/
theorem cycleTurn_lastTickCount {s t : State} (h : cycleTurn s = .next t) :
    t.lastTickCount = s.lastTickCount := by
  obtain ⟨u, hu, ht⟩ := andThen_eq_next.1 h
  obtain ⟨-, -, -, -, -, hlast, -⟩ := cycle_sameScheduling hu
  cases ht
  exact hlast

/-- A tick goes on iff no fault is latched and a cycle or a timer decrement is due. -/
theorem not_tickOver_iff {s : State} : s.tickOver = false ↔
    s.latch = none ∧ (s.cycleDue = true ∨ s.decrementDue = true) := by
  rw [← Bool.not_eq_true, tickOver_iff, not_or, not_not, not_and_or, Bool.not_eq_false,
    Bool.not_eq_false]

/-! ### The report of a fault (60_exceptions R341, R352) -/

/-- From `s` to `t` one fault is raised: none was latched, one now is, and one more is reported. -/
def LatchesOneFault (s t : State) : Prop :=
  s.latch = none ∧ t.latch ≠ none ∧ faultReports t.reports = faultReports s.reports + 1

/-- A fault raised where none is latched, after a part of the step that raised none. -/
theorem KeepsWithoutFault.latchesOneFault {s u : State} (h : KeepsWithoutFault s u) (hs : s.latch = none)
    (k : FaultKind) (w : Word) : LatchesOneFault s (raiseFault k w u) :=
  ⟨hs, Option.some_ne_none k, by rw [faultReports_raiseFault, h.faults]⟩

/-- Every step either raises no fault or raises one, in which case none was latched before it. -/
theorem step_fault_cases {s t : State} (h : step s = .next t) :
    KeepsWithoutFault s t ∨ LatchesOneFault s t := by
  rcases step_cases h with ⟨-, rfl⟩ | ⟨-, -, -, rfl⟩ | ⟨-, -, -, rfl⟩ | ⟨ha, -, w, u, hf, hd⟩
  case inr.inr.inr =>
    have hu := fetch_spendPeriod_keeps hf
    have hs := (active_iff.1 ha).1
    rcases hd with ⟨r, -, rfl⟩ | ⟨i, v, -, he, rfl⟩
    · exact .inr (hu.latchesOneFault hs .unknownOpcode w)
    · rcases exec_cases he with hv | ⟨k, -, rfl⟩
      · exact .inl ((hu.trans hv).trans (keepsWithoutFault_of_eq rfl rfl rfl rfl rfl rfl rfl))
      · exact .inr (hu.latchesOneFault hs k (encode i))
  all_goals exact .inl (keepsWithoutFault_of_eq rfl rfl rfl rfl rfl rfl rfl)

/-! ### The loader (60_exceptions R360, R368) -/

/-- A write leaves memory canonical. -/
theorem memWrite_wf {s : State} (hm : s.mem.wf = true) (a : Nat) (v : Byte) :
    (memWrite a v s).2.mem.wf = true := by
  by_cases h : a < s.params.memSize
  · rw [memWrite_of_lt h]
    exact wf_set hm a v
  · rw [memWrite_of_le (Nat.le_of_not_lt h)]
    exact hm

@[simp] theorem memWrite_params (a : Nat) (v : Byte) (s : State) :
    (memWrite a v s).2.params = s.params := by
  rw [memWrite_eq]

/-- The write of each byte succeeds iff its address is in range. -/
theorem loadSuccess_eq (a : Nat) (image : List Byte) (s : State) : loadSuccess a image s =
    (List.range image.length).map fun k => decide (a + k < s.params.memSize) := by
  induction image generalizing a s with
  | nil => rfl
  | cons v image ih =>
    have hfirst : (memWrite a v s).1 = decide (a < s.params.memSize) := by
      rw [memWrite_eq, Bool.eq_iff_iff, inMemory_iff, decide_eq_true_eq]
    rw [loadSuccess, ih, hfirst, List.length_cons, List.range_succ_eq_map]
    simp [Nat.add_assoc, Nat.add_comm 1]

/-- What every address reads after an image is loaded from address `a` on. -/
theorem loadBytes_byteAt {s : State} (hm : s.mem.wf = true) (a : Nat) (image : List Byte) (b : Nat) :
    (loadBytes a image s).byteAt b =
      if b < s.params.memSize ∧ a ≤ b ∧ b < a + image.length
      then image.getD (b - a) 0 else s.byteAt b := by
  induction image generalizing a s with
  | nil =>
    rw [List.length_nil, if_neg (by omega)]
    rfl
  | cons v image ih =>
    simp only [loadBytes, ih (memWrite_wf hm a v), memWrite_byteAt hm, memWrite_params, inMemory_iff,
      List.length_cons]
    by_cases hb : b = a
    · subst hb
      simp
    · by_cases hlater : b < s.params.memSize ∧ a + 1 ≤ b ∧ b < a + 1 + image.length
      · have hindex : b - a = b - (a + 1) + 1 := by omega
        rw [if_pos hlater, if_pos (by omega), hindex, List.getD_cons_succ]
      · rw [if_neg hlater, if_neg fun h => hb h.1, if_neg (by omega)]

/-! ### An inactive machine (40_cycle R150, R153) -/

/-- A closed machine is inactive (60_exceptions R362). -/
theorem inactive_of_closed {s : State} (h : s.closed = true) : s.active = false := by
  simp [State.active, h]

/-- A run of an inactive machine goes on, and lets time pass alone. -/
theorem run_of_inactive (n : Nat) {s : State} (h : s.active = false) :
    ∃ u, core.run n s = .next u ∧ u = { s with
      acc := u.acc, tacc := u.tacc, tickCount := u.tickCount, lastTickCount := u.lastTickCount
      timeDraws := u.timeDraws } := by
  induction n generalizing s with
  | zero => exact ⟨s, rfl, rfl⟩
  | succ n ih =>
    rw [run_succ (step_inactive h)]
    exact ih (s := inactiveStep s) h

/-! ### The obligations -/

/-- Settles O9: the instruction step of a word that does not decode; its fault ends the tick. -/
theorem illegalWordLatchesUnknownOpcode : Obligations.IllegalWordLatchesUnknownOpcode := by
  intro s r ha hc hr
  rw [step_cycle ha hc, instructionStep_eq, fetch_spendPeriod, hr, dispatch, andThen,
    finishTickIfOver_of_fault (Option.some_ne_none FaultKind.unknownOpcode)]
  rfl

/-- Settles O17: the step is a turn of a tick's loop, and writes the tick's last line if the tick is then
over. -/
theorem timersWaitForTheEndOfTheTick : Obligations.TimersWaitForTheEndOfTheTick := by
  intro s t ha hc h
  rw [step_cycle ha hc] at h
  obtain ⟨u, hturn, ht⟩ := andThen_eq_next.1 h
  cases ht
  obtain ⟨-, -, hacc, htacc, hcount⟩ := cycleTurn_scheduling hturn
  obtain ⟨hdelay, hsound⟩ := cycleTurn_timers hturn
  have hspent : u.acc + s.params.instrPeriod = s.acc := by
    rw [hacc, Nat.sub_add_cancel (cycleDue_iff.1 hc)]
  refine ⟨hdelay, hsound, htacc, hspent, ?_⟩
  split
  next hgo =>
    rw [finishTickIfOver_of_not_over (s := u) (not_tickOver_iff.2 hgo)]
    exact ⟨hcount, cycleTurn_lastTickCount hturn⟩
  next hend =>
    have hover : u.tickOver = true := Bool.eq_true_of_not_eq_false (mt not_tickOver_iff.1 hend)
    rw [finishTickIfOver_of_over hover]
    exact ⟨rfl, hcount⟩

/-- Settles O22: a step either raises no fault, and leaves the latch, or raises one. -/
theorem faultIsReportedOnceWhenLatched : Obligations.FaultIsReportedOnceWhenLatched := by
  intro s t h
  rcases step_fault_cases h with hk | ⟨hs, ht, hreports⟩
  · rw [hk.faults, hk.latch, if_neg and_not_self, Nat.add_zero]
  · rw [if_pos ⟨hs, ht⟩, hreports]

/-- Settles O58 by the loader's frame, its answers and what it leaves at each address. -/
theorem loaderPlacesTheImageAtLoadAddr : Obligations.LoaderPlacesTheImageAtLoadAddr := by
  intro s image hm
  refine ⟨_, rfl, loadBytes_frame s.params.loadAddr image s, ?_, fun k hk => ?_,
    loadBytes_byteAt hm s.params.loadAddr image⟩
  · rw [loadSuccess_eq, List.length_map, List.length_range]
  · simp [loadSuccess_eq, List.getD_eq_getElem?_getD, hk]

/-- Settles O59: a closed machine is inactive, and its runs let time pass alone. -/
theorem closedMachineStaysInactive : Obligations.ClosedMachineStaysInactive := by
  intro s n
  have ht : State.active { s with closed := true } = false := inactive_of_closed rfl
  obtain ⟨u, hrun, hu⟩ := run_of_inactive n ht
  refine ⟨_, u, rfl, rfl, ht, hrun, ?_⟩
  rw [hu]
  exact ⟨rfl, inactive_of_closed rfl, rfl, rfl, rfl⟩

end Sys2Proof.Machine

/-! # Reset (70_reset_and_hazards)

The family `70_reset_and_hazards`: what construction, which is also reset, leaves in each piece of state
(O5). -/

namespace Sys2Proof.Machine

/-! ### The constructed state (70_reset_and_hazards R381, R383) -/

/-- Every register is zeroed. -/
@[simp] theorem construct_reg (p : Params) (image : Memory) (r : Reg) :
    (State.construct p image).reg r = 0 :=
  Vector.getElem_replicate r.isLt

/-- Every slot of the return stack is zeroed, also those that sp does not reach. -/
@[simp] theorem construct_stack (p : Params) (image : Memory) (j : Fin 16) :
    (State.construct p image).stack[j.val] = 0 :=
  Vector.getElem_replicate j.isLt

/-- No pixel is active, whatever the resolution. -/
@[simp] theorem construct_pixel (p : Params) (image : Memory) (x y : Nat) :
    (State.construct p image).fb.pixel x y = false :=
  blank_pixel p.fbWidth p.fbHeight x y

/-- The machine is active: no fault is latched and the presentation is not closed (40_cycle R150). -/
@[simp] theorem construct_active (p : Params) (image : Memory) :
    (State.construct p image).active = true :=
  rfl

/-! ### The obligations -/

/-- Settles O5, row by row of R381: the registers, the stack and the pixels hold their zero at every
position, and every other row is a field that construction writes. -/
theorem resetLeavesTheZeroedState : Obligations.ResetLeavesTheZeroedState := by
  refine ⟨fun p image => ⟨State.construct p image, rfl, rfl, construct_reg p image, rfl, rfl, rfl,
    construct_stack p image, rfl, rfl, rfl, rfl, rfl, rfl, rfl, rfl, rfl, construct_pixel p image,
    rfl, rfl, rfl, construct_active p image⟩, ?entryPc⟩
  case entryPc => rfl

end Sys2Proof.Machine

/-! # The model's own stop (10_state section 3)

The family `other`: a return with sp out of its range (O32). -/

namespace Sys2Proof.Machine

/-- A return with sp above 16, where `Pop()` has no slot to read (10_state R37, R59). -/
theorem execRet_of_noSlot {s : State} (h : 16 < s.sp.toNat) : execRet s = .fault .noStackSlot := by
  rw [execRet, pop_noSlot h]

/-- Settles O32: RET is a pop, and a pop with sp above 16 has no slot. -/
theorem retBeyondTheStackStops : Obligations.RetBeyondTheStackStops :=
  fun _ => execRet_of_noSlot

end Sys2Proof.Machine
